-- ==== Sys2Proof/Word.lean ====
section
/-! DEFINITION. The machine's units: bytes, words and `segment:offset` pairs (R10, R60, R70). -/

namespace Sys2Proof

/-- A byte (R70). -/
abbrev Byte := BitVec 8

/-- A 16-bit word: `REG_WIDTH` of R9, the width of registers, segments and offsets. -/
abbrev Word := BitVec 16

/-- An address is a pair `seg:off` of two 16-bit words (R13, R60). `DecidableEq` compares the pairs; the equality R60 gives
addresses is `sameAddress`, by linear address (Machine/Memory.lean). -/
structure Addr where
  seg : Word
  off : Word
deriving DecidableEq, Repr

end Sys2Proof
end

