-- ==== Sys2Proof/Config.lean ====
section
/-! DEFINITION. The parameters of R9, each a field with the value the rule gives as its default, and the two free values
the spec leaves open: the draws (R447, D35) and the undefined flag bits (`UNDEF`, R9, D21). `N_WARRIORS`, `GROUPS`,
`IMAGE` and `LOAD_OFFSET` are the fields of `ResetConfig` (Machine/Reset.lean). -/

namespace Sys2Proof.Config

/-- `NRG_OVERFLOW` (R9, R400, D29): what NRG does at Energy 0xFFFF. The spec names `saturate`, and D29 the wrap it
avoids; that these two are the choices is DESIGN CHOICE (log 30). -/
inductive NrgOverflow where
  | saturate
  | wrap
deriving DecidableEq, Repr

/-- The parameters of R9. A default is the value the rule fixes for the hardware. They are inputs of reset (R480) and
constant afterwards (R45, log 29). -/
structure Params where
  /-- `REG_WIDTH`: `Word` is a type of this width, so a legal configuration has 16, the source's value (log 29). -/
  regWidth : Nat := 16
  /-- `PARAGRAPH_SIZE` (R61). -/
  paragraphSize : Nat := 16
  /-- `ADDRESS_WIDTH`. -/
  addressWidth : Nat := 20
  /-- `MEMORY_SIZE` (R61, D2): `2 ^ ADDRESS_WIDTH`. -/
  memorySize : Nat := 0x100000
  /-- `ARENA_SEGMENT` (R482, R488, D3). -/
  arenaSegment : Word := 0x1000
  /-- `ARENA_SIZE` (R482). -/
  arenaSize : Nat := 0x10000
  /-- `ARENA_FILL` (R482, D4). -/
  arenaFill : Byte := 0xCC
  /-- `BACKGROUND_FILL` (R481, D4). -/
  backgroundFill : Byte := 0x00
  /-- `STACK_SIZE` (R486, R488, D5). -/
  stackSize : Nat := 2048
  /-- `SHARED_SIZE` (R486, D5). -/
  sharedSize : Nat := 1024
  /-- `MAX_WARRIOR_SIZE` (R483). -/
  maxWarriorSize : Nat := 512
  /-- `MIN_GAP` (R484, D6). -/
  minGap : Nat := 1024
  /-- `MAX_LOADING_TRIES` (D6): the host's alone (R484), nothing of the block reads it. -/
  maxLoadingTries : Nat := 100
  /-- `MAX_REGIONS` (R87, D9). -/
  maxRegions : Nat := 16
  /-- `PERM_READ` (R83, D8). -/
  permRead : Byte := 1
  /-- `PERM_WRITE` (R83, D8). -/
  permWrite : Byte := 2
  /-- `PERM_EXEC` (R83, D8). -/
  permExec : Byte := 4
  /-- `DECELERATION_ROUNDS` (R445, D11). -/
  decelerationRounds : Nat := 5
  /-- `MAX_SPEED` (R446, D11). -/
  maxSpeed : Nat := 16
  /-- `MAX_ROUND` (R448, D11). -/
  maxRound : Nat := 200000
  /-- `SHIFT_COUNT_MASK` (R271, D20). -/
  shiftCountMask : Byte := 0x1F
  /-- `NRG_OVERFLOW` (R400, D29). -/
  nrgOverflow : NrgOverflow := .saturate
  /-- `SEED` (R490, D35): what the generator is seeded from. R9 gives no value: 0 is DESIGN CHOICE (log 3). -/
  seed : Nat := 0
deriving DecidableEq, Repr

/-- The values R9 fixes for the hardware. -/
abbrev hardware : Params := {}

/-- `ARENA_BASE = ARENA_SEGMENT * PARAGRAPH_SIZE` (R482). -/
def Params.arenaBase (p : Params) : Nat := p.arenaSegment.toNat * p.paragraphSize

/-- Where the arena ends and the bump allocator starts (R482, R486). -/
def Params.arenaEnd (p : Params) : Nat := p.arenaBase + p.arenaSize

/-- `PERM_READ|PERM_WRITE`: what a hart gets on its stack and its group's shared block (R487). -/
def Params.permData (p : Params) : Byte := p.permRead ||| p.permWrite

/-- `PERM_READ|PERM_WRITE|PERM_EXEC`: what a hart gets on the arena, and every bit a permission byte may have (R83,
R487). -/
def Params.permAll (p : Params) : Byte := p.permRead ||| p.permWrite ||| p.permExec

/-- The parameter values the rules make sense for. A paragraph is a power of two (R62 shifts by its logarithm);
`MEMORY_SIZE` is `2 ^ ADDRESS_WIDTH` (D2); a linear address has a segment and an offset that fit 16 bits (R62); the
arena is at most one 64K segment and lies in memory (R482, D3); stack and shared blocks start on paragraph boundaries
(R486); a stack is not empty and `SP = STACK_SIZE` fits a word (R488); the permission bits are three distinct ones
(D8); a turn's modulus and speed are defined (R445, `MAX_SPEED >= 16`, R9). What the block does with other values no
rule says: DESIGN CHOICE (log 29). -/
def Params.legal (p : Params) : Bool :=
  decide (p.regWidth = 16) &&
  decide (2 ^ p.paragraphSize.log2 = p.paragraphSize) && decide (p.paragraphSize ≤ 0x10000) &&
  decide (p.memorySize = 2 ^ p.addressWidth) && decide (p.memorySize ≤ 0x10000 * p.paragraphSize) &&
  decide (p.arenaSize ≤ 0x10000) && decide (p.arenaEnd ≤ p.memorySize) &&
  decide (p.arenaSize % p.paragraphSize = 0) &&
  decide (p.stackSize % p.paragraphSize = 0) && decide (p.sharedSize % p.paragraphSize = 0) &&
  decide (0 < p.stackSize) && decide (p.stackSize < 0x10000) &&
  p.permRead != 0 && p.permWrite != 0 && p.permExec != 0 &&
  p.permRead &&& p.permWrite == 0 && p.permRead &&& p.permExec == 0 && p.permWrite &&& p.permExec == 0 &&
  decide (0 < p.decelerationRounds) && decide (16 ≤ p.maxSpeed)

/-- The longest instruction, in bytes (R110). -/
abbrev maxInstrBytes : Nat := 6

/-- The scheduler's generator (R447, D35): a FREE VALUE, applied to the seed and the number of draws taken so far; the
draw is its remainder by `MAX_SPEED`. No body: nothing can be proved that depends on a sequence. DESIGN CHOICE (log
3). -/
opaque generator : (seed : Nat) → (count : Nat) → Nat

/-- The flag bits that `UNDEF` gives (R9, R48, D21): a FREE VALUE, applied to the number of words taken so far.
A word read as FLAGS; the bits an instruction leaves undefined are copied from it. DESIGN CHOICE (log 4). -/
opaque undef : Nat → Word

/-- The draw `u` in `0 .. MAX_SPEED-1` after `count` draws (R447). -/
def Params.draw (p : Params) (count : Nat) : Nat := generator p.seed count % p.maxSpeed

end Sys2Proof.Config
end

