-- ==== Sys2Proof/Machine/Bits.lean ====
section
/-! DEFINITION. Bytes and words: halves, little-endian joining, sign extension, parity (R10, R11, R16, R22, R71). -/

namespace Sys2Proof.Machine

/-- The low byte `w[7:0]` (R22, R71). -/
def lowByte (w : Word) : Byte := w.extractLsb' 0 8

/-- The high byte `w[15:8]` (R22, R71). -/
def highByte (w : Word) : Byte := w.extractLsb' 8 8

/-- `hi ++ lo` (R10): the word whose halves they are. -/
def joinBytes (hi lo : Byte) : Word := hi ++ lo

/-- `sext_8(b) mod 2^16` (R11, R122). -/
def sext8 (b : Byte) : Word := b.signExtend 16

/-- `zext_8(b)` in 16 bits (R11). -/
def zext8 (b : Byte) : Word := b.setWidth 16

/-- "the number of 1 bits in r[7:0] is even" (R16). -/
def evenParity {n : Nat} (r : BitVec n) : Bool :=
  (List.range 8).countP (fun i => r.getLsbD i) % 2 == 0

end Sys2Proof.Machine
end

