-- ==== Sys2Proof/Machine/State.lean ====
section
/-! DEFINITION. The state of the block (10_state.md): every hart's register file, game registers, alive flag,
permission table and static record; the one memory; the scheduler's registers; the outputs emitted. And
`State.reset`, the block right after reset (70_reset_and_hazards.md). -/

namespace Sys2Proof.Machine

/-- The FLAGS word, bit by bit (R29, R30): all sixteen bits are storage; the unnamed bits carry their number.
Bit 0 is `CF`, then `b1`, `PF`, `b3`, `AF`, `b5`, `ZF`, `SF`, `TF`, `IF`, `DF`, `OF`, `b12` .. `b15`. DEDUCED (log 5). -/
structure Flags where
  CF : Bool
  b1 : Bool
  PF : Bool
  b3 : Bool
  AF : Bool
  b5 : Bool
  ZF : Bool
  SF : Bool
  TF : Bool
  IF : Bool
  DF : Bool
  OF : Bool
  b12 : Bool
  b13 : Bool
  b14 : Bool
  b15 : Bool
deriving DecidableEq, Repr

/-- One pair `(end, perm)` of a permission table (R83): addresses below `stop` and at or above the pair before
it have the permission byte `perm`. -/
structure Region where
  stop : Nat
  perm : Byte
deriving DecidableEq, Repr

/-- The static warrior record (R36): fixed at reset, never written afterwards. -/
structure WarriorInfo where
  name : String
  codeSize : Nat
  loadOffset : Word
  group : Nat
  stackLinear : Nat
  sharedLinear : Nat
deriving DecidableEq, Repr

/-- One hart (R21 to R37): registers by the names the spec gives them. -/
structure Hart where
  AX : Word
  CX : Word
  DX : Word
  BX : Word
  SP : Word
  BP : Word
  SI : Word
  DI : Word
  ES : Word
  CS : Word
  SS : Word
  DS : Word
  IP : Word
  flags : Flags
  energy : Word
  bomb0 : Byte
  bomb1 : Byte
  bomb2 : Byte
  alive : Bool
  perm : List Region
  info : WarriorInfo
deriving DecidableEq, Repr

/-- The one memory (R38), as the bytes that differ from what reset fills memory with (R481, R482): addresses
strictly rising, no entry equal to the fill. -/
structure Memory where
  cells : List Host.Cell
deriving DecidableEq, Repr

/-- The three access channels (R74). -/
inductive Channel where
  | read
  | write
  | execute
deriving DecidableEq, Repr

/-- The spec's `Fault` (R430): what an instruction raises and its hart dies of. -/
inductive HartFault where
  | memoryFault (ch : Channel) (linear : Nat)
  | invalidOpcode
  | unimplementedOpcode
  | divisionFault
deriving DecidableEq, Repr

/-- Why a war ended (R40, R448). -/
inductive EndReason where
  | singleWinner
  | roundCapReached
  | aborted
deriving DecidableEq, Repr

/-- The outputs of the block (R81, R450); names stand for hart indices. -/
inductive Event where
  | write (linear : Nat)
  | round (r : Nat)
  | warStart
  | birth (w : Nat)
  | death (w : Nat) (f : HartFault)
  | warEnd (reason : EndReason) (winners : List Nat)
deriving DecidableEq, Repr

/-- The scheduler's position inside a round (R451): at the boundary before a round, at the mandatory instruction
of the hart `turn`, or at its extra instruction. The model's own field (log 6). -/
inductive Phase where
  | boundary
  | mandatory
  | extra
deriving DecidableEq, Repr

/-- The state of the block (R20). `phase`, `drawCount`, `undefCount` and `events` are the model's own, and so is `params`:
the parameters are no state (R45), but a step reads them. -/
structure State where
  /-- The parameters this block was reset with (R9, R480): no step changes them (log 29). -/
  params : Config.Params
  /-- The harts, in load order (R20, R462). -/
  harts : List Hart
  /-- The one memory (R38). -/
  mem : Memory
  /-- Rounds completed (R40). -/
  round : Nat
  /-- The hart whose turn it is (R40, R443). -/
  turn : Nat
  /-- The scheduler's position (R451). -/
  phase : Phase
  /-- Harts with `alive` true (R40). -/
  aliveCount : Nat
  /-- Death events so far (R40). -/
  deathCount : Nat
  /-- `ended` and `end_reason` in one (R40): ended is `some`. -/
  endReason : Option EndReason
  /-- The host's abort flag (R42). -/
  abort : Bool
  /-- Draws taken so far: the index of the next free draw (R447, log 3). -/
  drawCount : Nat
  /-- `UNDEF` words taken so far: the index of the next (D21, log 4). -/
  undefCount : Nat
  /-- Outputs emitted so far, newest first (R450, log 12). -/
  events : List Event
deriving DecidableEq, Repr

/-- Why the model's `step` stops. The spec's own faults are not here: a fault kills its hart and the block goes on
(R434), which is a next state. -/
inductive Fault where
  /-- Raised by `step` on a block whose war has ended: it does nothing more (R448, R498; U29 says "stuck"). Safe. -/
  | warEnded
  /-- Raised when `turn` is no hart's index: no state of the machine, reached from none that is (log 10). Safe. -/
  | noSuchHart
deriving DecidableEq, Repr

/-- Why an instruction has no meaning. -/
inductive Refusal where
  /-- Raised by `exec` for an instruction without a meaning in this model; no arm raises it now. Safe. -/
  | notModelled (mnemonic : String)
deriving DecidableEq, Repr

/-- FLAGS after reset: all sixteen bits 0 (R29, R488). -/
def Flags.zero : Flags :=
  ⟨false, false, false, false, false, false, false, false, false, false, false, false, false, false, false, false⟩

/-- The registers of a hart at reset (R488), for a warrior placed at `info.loadOffset` with its blocks at
`info.stackLinear` and `info.sharedLinear`, and its permission table. -/
def Hart.atReset (p : Config.Params) (info : WarriorInfo) (perm : List Region) : Hart where
  AX := info.loadOffset
  CX := 0
  DX := 0
  BX := 0
  SP := BitVec.ofNat 16 p.stackSize
  BP := 0
  SI := 0
  DI := 0
  ES := BitVec.ofNat 16 (info.sharedLinear / p.paragraphSize)
  CS := p.arenaSegment
  SS := BitVec.ofNat 16 (info.stackLinear / p.paragraphSize)
  DS := p.arenaSegment
  IP := info.loadOffset
  flags := Flags.zero
  energy := 0
  bomb0 := 2
  bomb1 := 1
  bomb2 := 0
  alive := true
  perm := perm
  info := info

/-- The block right after reset, for the configuration of log 2 (DESIGN CHOICE): the parameters at the values of R9, two
singleton groups placed at 0x0400 and 0x2000 (the offsets of vector V70-1), each image the one byte `ARENA_FILL`, so
that memory is the fill alone and holds no program. Every other value is the one R486 to R490 and R89 give. -/
def State.reset : State where
  params := Config.hardware
  harts :=
    [ Hart.atReset Config.hardware ⟨"warrior0", 1, 0x0400, 0, 0x20400, 0x20000⟩
        [⟨0x10000, 0⟩, ⟨0x20000, 7⟩, ⟨0x20C00, 3⟩],
      Hart.atReset Config.hardware ⟨"warrior1", 1, 0x2000, 1, 0x21000, 0x20C00⟩
        [⟨0x10000, 0⟩, ⟨0x20000, 7⟩, ⟨0x20C00, 0⟩, ⟨0x21800, 3⟩] ]
  mem := ⟨[]⟩
  round := 0
  turn := 0
  phase := .boundary
  aliveCount := 2
  deathCount := 0
  endReason := none
  abort := false
  drawCount := 0
  undefCount := 0
  events := [.birth 1, .birth 0, .warStart]

end Sys2Proof.Machine
end

