-- ==== Sys2Proof/Machine/Flags.lean ====
section
/-! DEFINITION. FLAGS as a word (R29), the arithmetic helpers `ADD_n`, `SUB_n`, `SZP_n` (R16) and every flag
computation of the instruction rules (R48). -/

namespace Sys2Proof.Machine

/-- FLAGS as one word, bit positions by R29. -/
def Flags.toWord (f : Flags) : Word :=
  BitVec.ofBool f.b15 ++ BitVec.ofBool f.b14 ++ BitVec.ofBool f.b13 ++ BitVec.ofBool f.b12 ++
  BitVec.ofBool f.OF ++ BitVec.ofBool f.DF ++ BitVec.ofBool f.IF ++ BitVec.ofBool f.TF ++
  BitVec.ofBool f.SF ++ BitVec.ofBool f.ZF ++ BitVec.ofBool f.b5 ++ BitVec.ofBool f.AF ++
  BitVec.ofBool f.b3 ++ BitVec.ofBool f.PF ++ BitVec.ofBool f.b1 ++ BitVec.ofBool f.CF

/-- All sixteen bits of FLAGS from a word (R30, R372, R391). -/
def Flags.ofWord (w : Word) : Flags where
  CF := w.getLsbD 0
  b1 := w.getLsbD 1
  PF := w.getLsbD 2
  b3 := w.getLsbD 3
  AF := w.getLsbD 4
  b5 := w.getLsbD 5
  ZF := w.getLsbD 6
  SF := w.getLsbD 7
  TF := w.getLsbD 8
  IF := w.getLsbD 9
  DF := w.getLsbD 10
  OF := w.getLsbD 11
  b12 := w.getLsbD 12
  b13 := w.getLsbD 13
  b14 := w.getLsbD 14
  b15 := w.getLsbD 15

/-- A result with the three flags that `ADD_n` and `SUB_n` return (R16). -/
structure Arith (n : Nat) where
  result : BitVec n
  CF : Bool
  AF : Bool
  OF : Bool
deriving DecidableEq, Repr

/-- `ADD_n(a, b, c)` (R16). -/
def addN {n : Nat} (a b : BitVec n) (c : Bool) : Arith n :=
  let s := a.toNat + b.toNat + c.toNat
  let r := BitVec.ofNat n s
  { result := r
    CF := decide (2 ^ n ≤ s)
    AF := decide (16 ≤ a.toNat % 16 + b.toNat % 16 + c.toNat)
    OF := a.msb == b.msb && r.msb != a.msb }

/-- `SUB_n(a, b, c)` (R16). -/
def subN {n : Nat} (a b : BitVec n) (c : Bool) : Arith n :=
  let r := BitVec.ofInt n ((a.toNat : Int) - b.toNat - c.toNat)
  { result := r
    CF := decide (a.toNat < b.toNat + c.toNat)
    AF := decide (a.toNat % 16 < b.toNat % 16 + c.toNat)
    OF := a.msb != b.msb && r.msb != a.msb }

/-- `SZP_n(r)` (R16): sets SF, ZF and PF. -/
def Flags.setSZP {n : Nat} (f : Flags) (r : BitVec n) : Flags :=
  { f with SF := r.msb, ZF := r == 0, PF := evenParity r }

/-- "flags from `ADD_n`" (or `SUB_n`), R16: CF, AF, OF and `SZP_n`. -/
def Flags.setArith {n : Nat} (f : Flags) (o : Arith n) : Flags :=
  { f.setSZP o.result with CF := o.CF, AF := o.AF, OF := o.OF }

/-- The flags of INC and DEC (R233, R234): as `setArith`, CF kept. -/
def Flags.setIncDec {n : Nat} (f : Flags) (o : Arith n) : Flags :=
  { f.setSZP o.result with AF := o.AF, OF := o.OF }

/-- The flags of AND, OR, XOR, TEST (R173, R176, R178, R180): CF and OF cleared, `SZP_n`, AF from `UNDEF`. -/
def Flags.setLogic {n : Nat} (f : Flags) (r : BitVec n) (u : Word) : Flags :=
  { f.setSZP r with CF := false, OF := false, AF := u.getLsbD 4 }

/-- The flags of MUL and IMUL (R314, R315, R318): CF and OF say `wide`, SF, ZF, AF, PF from `UNDEF`. -/
def Flags.setMul (f : Flags) (wide : Bool) (u : Word) : Flags :=
  { f with CF := wide, OF := wide, PF := u.getLsbD 2, AF := u.getLsbD 4, ZF := u.getLsbD 6, SF := u.getLsbD 7 }

/-- The flags of DIV and IDIV (R316, R317): all six arithmetic flags from `UNDEF`. -/
def Flags.setUndefined (f : Flags) (u : Word) : Flags :=
  { f with CF := u.getLsbD 0, PF := u.getLsbD 2, AF := u.getLsbD 4, ZF := u.getLsbD 6, SF := u.getLsbD 7,
           OF := u.getLsbD 11 }

/-- SAHF (R389): SF, ZF, AF, PF, CF from bits 7, 6, 4, 2, 0. -/
def Flags.setFromAH (f : Flags) (ah : Byte) : Flags :=
  { f with SF := ah.getLsbD 7, ZF := ah.getLsbD 6, AF := ah.getLsbD 4, PF := ah.getLsbD 2, CF := ah.getLsbD 0 }

/-! ### Shifts and rotates (43_shift_rotate.md) -/

/-- The seven operations of group 2 (R126). -/
inductive ShiftOp where
  | rol
  | ror
  | rcl
  | rcr
  | shl
  | shr
  | sar
deriving DecidableEq, Repr

/-- The rotates leave SF, ZF, AF and PF alone (R272 to R275). -/
def ShiftOp.isRotate : ShiftOp → Bool
  | .rol | .ror | .rcl | .rcr => true
  | .shl | .shr | .sar => false

/-- One step of an operation on the value and CF (R272 to R278). -/
def shiftStep {n : Nat} (op : ShiftOp) (v : BitVec n) (cf : Bool) : BitVec n × Bool :=
  let bottom (b : Bool) : BitVec n := BitVec.ofNat n b.toNat
  let top (b : Bool) : BitVec n := BitVec.ofNat n b.toNat <<< (n - 1)
  match op with
  | .rol => ((v <<< 1) ||| bottom v.msb, v.msb)
  | .ror => ((v >>> 1) ||| top (v.getLsbD 0), v.getLsbD 0)
  | .rcl => ((v <<< 1) ||| bottom cf, v.msb)
  | .rcr => ((v >>> 1) ||| top cf, v.getLsbD 0)
  | .shl => (v <<< 1, v.msb)
  | .shr => (v >>> 1, v.getLsbD 0)
  | .sar => ((v >>> 1) ||| top v.msb, v.getLsbD 0)

/-- "repeat count times" (R271). -/
def shiftRepeat {n : Nat} (op : ShiftOp) : (count : Nat) → BitVec n → Bool → BitVec n × Bool
  | 0, v, cf => (v, cf)
  | k + 1, v, cf =>
    let (v', cf') := shiftStep op v cf
    shiftRepeat op k v' cf'

/-- OF after a masked count of exactly 1 (R272 to R278): `v` the original operand, `r` the result, `cf` CF after. -/
def shiftOF {n : Nat} (op : ShiftOp) (v r : BitVec n) (cf : Bool) : Bool :=
  match op with
  | .rol | .rcl | .shl => r.msb ^^ cf
  | .ror | .rcr => r.msb ^^ r.getLsbD (n - 2)
  | .shr => v.msb
  | .sar => false

/-- Whether a shift of a non-zero masked count leaves a flag to `UNDEF` (R48, R271): AF for the shifts, OF for a
count above 1. -/
def shiftLeavesUndefined (op : ShiftOp) (count : Nat) : Bool := !op.isRotate || decide (1 < count)

/-- FLAGS after a shift or rotate of non-zero masked count (R48, R271 to R278); `u` is the `UNDEF` word. -/
def Flags.setShift {n : Nat} (f : Flags) (op : ShiftOp) (count : Nat) (v r : BitVec n) (cf : Bool) (u : Word) :
    Flags :=
  let g := if op.isRotate then f else { f.setSZP r with AF := u.getLsbD 4 }
  { g with CF := cf, OF := if count = 1 then shiftOF op v r cf else u.getLsbD 11 }

end Sys2Proof.Machine
end

