-- ==== Sys2Proof/Machine/Memory.lean ====
section
/-! DEFINITION. The address translator (R60 to R64), the memory (R38, R70) and the access-control checker
(R83 to R88). -/

namespace Sys2Proof.Machine

open Sys2Proof.Config (Params)

/-! ### The address translator -/

/-- `lin(seg:off) = (seg * PARAGRAPH_SIZE + off) mod MEMORY_SIZE` (R60, R61). -/
def lin (p : Params) (a : Addr) : Nat := (a.seg.toNat * p.paragraphSize + a.off.toNat) % p.memorySize

/-- Equality of addresses (R60): by linear value only. -/
def sameAddress (p : Params) (a b : Addr) : Bool := lin p a == lin p b

/-- Ordering of addresses (R60): by linear value only. -/
def compareAddress (p : Params) (a b : Addr) : Ordering := compare (lin p a) (lin p b)

/-- `fromLinear(L)`: the highest possible segment (R62). -/
def fromLinear (p : Params) (L : Nat) : Addr :=
  ⟨BitVec.ofNat 16 (L / p.paragraphSize), BitVec.ofNat 16 (L % p.paragraphSize)⟩

/-- `addOffset(seg:off, delta)`: wraps inside the segment (R63). -/
def addOffset (a : Addr) (delta : Word) : Addr := ⟨a.seg, a.off + delta⟩

/-- `addAddress(seg:off, delta)` for `delta >= 0` (R64, D36); no instruction uses it (log 23). -/
def addAddress (p : Params) (a : Addr) (delta : Nat) : Addr :=
  let adr := lin p a + delta
  let newOff := (delta + a.off.toNat) % 0x10000
  if newOff < adr then
    ⟨BitVec.ofNat 16 ((adr - newOff) / p.paragraphSize), BitVec.ofNat 16 newOff⟩
  else
    ⟨0, BitVec.ofNat 16 adr⟩

/-! ### Memory -/

/-- What reset fills the byte at linear address `L` with (R481, R482): what an unlisted address reads as. -/
def fillAt (p : Params) (L : Nat) : Byte :=
  if p.arenaBase ≤ L ∧ L < p.arenaEnd then p.arenaFill else p.backgroundFill

/-- The entry listed for an address, if any. -/
def lookupCell : List Host.Cell → Nat → Option Byte
  | [], _ => none
  | c :: rest, L => if c.1 = L then some c.2 else lookupCell rest L

/-- `Mem[L]` (R38). -/
def Memory.read (p : Params) (m : Memory) (L : Nat) : Byte := (lookupCell m.cells L).getD (fillAt p L)

/-- Puts an entry before the first entry of a higher address. -/
def insertCell (c : Host.Cell) : List Host.Cell → List Host.Cell
  | [] => [c]
  | d :: rest => if c.1 < d.1 then c :: d :: rest else d :: insertCell c rest

/-- `Mem[L] <- v` (R76): a byte equal to the fill is not listed. -/
def Memory.write (p : Params) (m : Memory) (L : Nat) (v : Byte) : Memory :=
  let others := m.cells.filter fun c => c.1 != L
  ⟨if v = fillAt p L then others else insertCell (L, v) others⟩

/-- Stores bytes at consecutive linear addresses (R485). -/
def Memory.writeBytes (p : Params) (m : Memory) (L : Nat) : List Byte → Memory
  | [] => m
  | b :: rest => (m.write p L b).writeBytes p (L + 1) rest

/-- Strictly rising addresses. -/
def risingCells : List Host.Cell → Bool
  | [] => true
  | [_] => true
  | c :: d :: rest => decide (c.1 < d.1) && risingCells (d :: rest)

/-- The canonical form: rising addresses inside the address space, no entry equal to the fill. -/
def Memory.wf (p : Params) (m : Memory) : Bool :=
  risingCells m.cells && m.cells.all fun c => decide (c.1 < p.memorySize) && c.2 != fillAt p c.1

/-! ### The access-control checker -/

/-- The permission bit a channel requests (R74, R85). -/
def Channel.bit (p : Params) : Channel → Byte
  | .read => p.permRead
  | .write => p.permWrite
  | .execute => p.permExec

/-- The loop of `checkAccess` (R85) over the regions from the first whose end exceeds the address. -/
def checkFrom : List Region → (pos hi : Nat) → (granted : Byte) → Byte
  | [], pos, hi, granted => if pos < hi then 0 else granted
  | r :: rest, pos, hi, granted =>
    if pos < hi then checkFrom rest r.stop hi (granted &&& r.perm) else granted

/-- `checkAccess(T, addr, size, mask)` (R85). -/
def checkAccess (p : Params) (T : List Region) (addr size : Nat) (mask : Byte) : Byte :=
  let hi := min (addr + size) p.memorySize
  match T.dropWhile (fun r => decide (r.stop ≤ addr)) with
  | [] => 0
  | r :: rest => checkFrom (r :: rest) addr hi mask

/-- `Allowed(T, L, ch)` (R85). -/
def allowed (p : Params) (T : List Region) (L : Nat) (ch : Channel) : Bool :=
  checkAccess p T L 1 (ch.bit p) == ch.bit p

/-- Where the last region of a table ends; 0 for the empty table (R86). -/
def tableEnd : List Region → Nat
  | [] => 0
  | [r] => r.stop
  | _ :: r :: rest => tableEnd (r :: rest)

/-- The regions of a table cut off at `lo`. -/
def clipTable (lo : Nat) : (start : Nat) → List Region → List Region
  | _, [] => []
  | start, r :: rest =>
    if r.stop ≤ lo then r :: clipTable lo r.stop rest
    else if start < lo then [⟨lo, r.perm⟩]
    else []

/-- Merges neighbours of equal permission (R86). -/
def mergeRegions : List Region → List Region
  | [] => []
  | r :: rest =>
    match mergeRegions rest with
    | [] => [r]
    | q :: more => if r.perm = q.perm then q :: more else r :: q :: more

/-- The list `T'` of R86: the table after the range is set, whatever its length. -/
def grantTable (p : Params) (T : List Region) (addr size : Nat) (perm : Byte) : List Region :=
  let hi := min (addr + size) p.memorySize
  let lo := min addr hi
  let below := clipTable lo 0 T
  let gap := if tableEnd below < lo then [⟨lo, 0⟩] else []
  let here := if lo < hi then [⟨hi, perm⟩] else []
  let above := T.filter fun r => decide (hi < r.stop)
  mergeRegions (below ++ gap ++ here ++ above)

/-- `grant(T, addr, size, perm)` (R86, D10); `none` when the result needs more than `MAX_REGIONS` regions, which
is a reset error (R87, D9). -/
def grant (p : Params) (T : List Region) (addr size : Nat) (perm : Byte) : Option (List Region) :=
  if size = 0 then some T
  else if (grantTable p T addr size perm).length ≤ p.maxRegions then some (grantTable p T addr size perm)
  else none

end Sys2Proof.Machine
end

