-- ==== Sys2Proof/Machine/Ops.lean ====
section
/-! DEFINITION. The operations every meaning is made of: the access primitives (R75 to R78), the stack (R231, R232),
the free flag word (D21), the interrupt dispatch and IRET (R370, R372), taking a fault (R434), and `perform`, which
runs an instruction's operations on the hart whose turn it is. -/

namespace Sys2Proof.Machine

/-- What an instruction works on: the parameters, its own hart, the memory, the count of `UNDEF` words taken, the
outputs. -/
structure Cpu where
  params : Config.Params
  hart : Hart
  mem : Memory
  undefCount : Nat
  events : List Event
deriving DecidableEq, Repr

/-- A piece of an instruction: it goes on with a value, or raises a fault, and keeps what was done before (R14). -/
abbrev Exec (α : Type) := EStateM HartFault Cpu α

/-- What `exec` and `step` answer. -/
abbrev Answer := Host.Outcome State Fault Refusal

/-! ### Registers and faults -/

/-- The executing hart's registers. -/
def getHart : Exec Hart := fun c => .ok c.hart c

/-- The parameters (R9). -/
def getParams : Exec Config.Params := fun c => .ok c.params c

/-- Assigns registers of the executing hart. -/
def modHart (f : Hart → Hart) : Exec Unit := fun c => .ok () { c with hart := f c.hart }

/-- Assigns flags of the executing hart. -/
def modFlags (f : Flags → Flags) : Exec Unit := fun c =>
  .ok () { c with hart := { c.hart with flags := f c.hart.flags } }

/-- `raise f` (R14): ends the instruction, undoes nothing. -/
def raise {α : Type} (f : HartFault) : Exec α := fun c => .error f c

/-- The next `UNDEF` word (D21, log 4). -/
def freeFlags : Exec Word := fun c =>
  .ok (Config.undef c.undefCount) { c with undefCount := c.undefCount + 1 }

/-! ### The access primitives -/

/-- `ReadByte(ch, seg:off)` (R75). -/
def readByte (ch : Channel) (a : Addr) : Exec Byte := fun c =>
  if allowed c.params c.hart.perm (lin c.params a) ch then .ok (c.mem.read c.params (lin c.params a)) c
  else .error (.memoryFault ch (lin c.params a)) c

/-- `WriteByte(seg:off, v)` (R76), with its write event (R81). -/
def writeByte (a : Addr) (v : Byte) : Exec Unit := fun c =>
  if allowed c.params c.hart.perm (lin c.params a) .write then
    .ok () { c with
      mem := c.mem.write c.params (lin c.params a) v
      events := .write (lin c.params a) :: c.events }
  else .error (.memoryFault .write (lin c.params a)) c

/-- `MemRead(seg:off, 1)` (R77). -/
def memRead8 (a : Addr) : Exec Byte := readByte .read a

/-- `MemRead(seg:off, 2)` (R77). -/
def memRead16 (a : Addr) : Exec Word := do
  let lo ← readByte .read a
  let hi ← readByte .read (addOffset a 1)
  pure (joinBytes hi lo)

/-- `MemRead(seg:off, 4)` (R78); no instruction uses it (log 23). -/
def memRead32 (a : Addr) : Exec (BitVec 32) := do
  let b0 ← readByte .read a
  let b1 ← readByte .read (addOffset a 1)
  let b2 ← readByte .read (addOffset a 2)
  let b3 ← readByte .read (addOffset a 3)
  pure (b3 ++ b2 ++ b1 ++ b0)

/-- `MemWrite(seg:off, 1, v)` (R77). -/
def memWrite8 (a : Addr) (v : Byte) : Exec Unit := writeByte a v

/-- `MemWrite(seg:off, 2, v)` (R77): the low byte first. -/
def memWrite16 (a : Addr) (v : Word) : Exec Unit := do
  writeByte a (lowByte v)
  writeByte (addOffset a 1) (highByte v)

/-- `MemWrite(seg:off, 4, v)` (R78); no instruction uses it (log 23). -/
def memWrite32 (a : Addr) (v : BitVec 32) : Exec Unit := do
  writeByte a (v.extractLsb' 0 8)
  writeByte (addOffset a 1) (v.extractLsb' 8 8)
  writeByte (addOffset a 2) (v.extractLsb' 16 8)
  writeByte (addOffset a 3) (v.extractLsb' 24 8)

/-! ### The stack -/

/-- `Push16(v)` (R231): SP first, then the word at the new `SS:SP`. -/
def push16 (v : Word) : Exec Unit := do
  modHart fun h => { h with SP := h.SP - 2 }
  let h ← getHart
  memWrite16 ⟨h.SS, h.SP⟩ v

/-- `Pop16()` (R232): the word first, then SP. -/
def pop16 : Exec Word := do
  let h ← getHart
  let v ← memRead16 ⟨h.SS, h.SP⟩
  modHart fun h => { h with SP := h.SP + 2 }
  pure v

/-! ### The interrupt dispatch and the return -/

/-- Where the vector table holds the offset word of vector `n` (R370); the segment word is two bytes above. -/
def vectorAddr (n : Byte) : Addr := ⟨0, BitVec.ofNat 16 (4 * n.toNat)⟩

/-- `Dispatch(n)` (R370): FLAGS, CS and IP pushed, IF and TF cleared, CS and IP from the vector. -/
def dispatch (n : Byte) : Exec Unit := do
  let h ← getHart
  push16 h.flags.toWord
  modFlags fun f => { f with IF := false, TF := false }
  push16 h.CS
  push16 h.IP
  let o ← memRead16 (vectorAddr n)
  let s ← memRead16 (addOffset (vectorAddr n) 2)
  modHart fun h => { h with IP := o, CS := s }

/-- IRET (R372): IP, CS and all of FLAGS popped. -/
def interruptReturn : Exec Unit := do
  let ip ← pop16
  modHart fun h => { h with IP := ip }
  let cs ← pop16
  modHart fun h => { h with CS := cs }
  let f ← pop16
  modFlags fun _ => Flags.ofWord f

/-! ### Taking a fault -/

/-- What fault `f` of the hart whose turn it is does (R434): the hart dies, and nothing else. -/
def State.kill (s : State) (f : HartFault) : State :=
  { s with
    harts := s.harts.modify s.turn fun h => { h with alive := false }
    aliveCount := s.aliveCount - 1
    deathCount := s.deathCount + 1
    events := .death s.turn f :: s.events }

/-! ### Running an instruction -/

/-- What the hart `h` of the block works on. -/
def State.cpu (s : State) (h : Hart) : Cpu := ⟨s.params, h, s.mem, s.undefCount, s.events⟩

/-- The block after the hart whose turn it is worked on `c`. -/
def State.commit (s : State) (c : Cpu) : State :=
  { s with harts := s.harts.set s.turn c.hart, mem := c.mem, undefCount := c.undefCount, events := c.events }

/-- Runs an instruction's operations on the hart whose turn it is. A fault kills the hart, keeps what was done before
it (R434, R439), and is a next state of the block (log 8). -/
def perform (m : Exec Unit) (s : State) : Answer :=
  match s.harts[s.turn]? with
  | none => .fault .noSuchHart
  | some h =>
    match m (s.cpu h) with
    | .ok _ c => .next (s.commit c)
    | .error f c => .next ((s.commit c).kill f)

end Sys2Proof.Machine
end

