-- ==== Sys2Proof/Syntax.lean ====
section
/-! DEFINITION. The instruction set: register names and operand forms (R24, R25, R31, R114 to R117), and one
constructor per row of the opcode table (R124 to R137). -/

namespace Sys2Proof

/-- The byte registers, in index order (R25). -/
inductive Reg8 where
  | AL
  | CL
  | DL
  | BL
  | AH
  | CH
  | DH
  | BH
deriving DecidableEq, Repr

/-- The word registers, in index order (R24). -/
inductive Reg16 where
  | AX
  | CX
  | DX
  | BX
  | SP
  | BP
  | SI
  | DI
deriving DecidableEq, Repr

/-- The segment registers, in index order (R31). -/
inductive Sreg where
  | ES
  | CS
  | SS
  | DS
deriving DecidableEq, Repr

/-- The base/index pairs of a memory operand, in `III` order (R117). -/
inductive Base where
  | bxSi
  | bxDi
  | bpSi
  | bpDi
  | si
  | di
  | bp
  | bx
deriving DecidableEq, Repr

/-- A memory operand, submodes 0 to 2 (R114, R117 to R119). -/
inductive MemOp where
  /-- Submode 0, `III` = 6: the absolute offset that follows, in `DS`. -/
  | absolute (disp : Word)
  /-- Submode 0, any other `III`. -/
  | plain (base : Base)
  /-- Submode 1: a sign-extended byte displacement. -/
  | disp8 (base : Base) (disp : Byte)
  /-- Submode 2: a word displacement. -/
  | disp16 (base : Base) (disp : Word)
deriving DecidableEq, Repr

/-- The `rm` operand of byte width, `Eb` (R120). -/
inductive Rm8 where
  | reg (r : Reg8)
  | mem (m : MemOp)
deriving DecidableEq, Repr

/-- The `rm` operand of word width, `Ew` (R120). -/
inductive Rm16 where
  | reg (r : Reg16)
  | mem (m : MemOp)
deriving DecidableEq, Repr

/-- The instructions, one constructor per row of the opcode table: the rows with operands in the table's order, then the
rows without (Lean's compiler has a limit on the number of constructors with fields before it). `rm` is the `Eb` or `Ew`
operand, `r` the register operand, `m` an operand that must be memory, `sr` the three bits that select a segment
register (R31: the table repeats, so all eight values are kept apart), `rel` a displacement, `imm` an immediate as
encoded. The rows that only raise a fault keep the bits their mask leaves free (log 21). -/
inductive Instr where
  /-- ADD Eb, Gb (R172). -/
  | addEbGb (rm : Rm8) (r : Reg8)
  /-- ADD Ew, Gw (R172). -/
  | addEwGw (rm : Rm16) (r : Reg16)
  /-- ADD Gb, Eb (R172). -/
  | addGbEb (r : Reg8) (rm : Rm8)
  /-- ADD Gw, Ew (R172). -/
  | addGwEw (r : Reg16) (rm : Rm16)
  /-- ADD AL, imm8 (R172). -/
  | addAlImm8 (imm : Byte)
  /-- ADD AX, imm16 (R172). -/
  | addAxImm16 (imm : Word)
  /-- OR Eb, Gb (R173). -/
  | orEbGb (rm : Rm8) (r : Reg8)
  /-- OR Ew, Gw (R173). -/
  | orEwGw (rm : Rm16) (r : Reg16)
  /-- OR Gb, Eb (R173). -/
  | orGbEb (r : Reg8) (rm : Rm8)
  /-- OR Gw, Ew (R173). -/
  | orGwEw (r : Reg16) (rm : Rm16)
  /-- OR AL, imm8 (R173). -/
  | orAlImm8 (imm : Byte)
  /-- OR AX, imm16 (R173). -/
  | orAxImm16 (imm : Word)
  /-- ADC Eb, Gb (R174). -/
  | adcEbGb (rm : Rm8) (r : Reg8)
  /-- ADC Ew, Gw (R174). -/
  | adcEwGw (rm : Rm16) (r : Reg16)
  /-- ADC Gb, Eb (R174). -/
  | adcGbEb (r : Reg8) (rm : Rm8)
  /-- ADC Gw, Ew (R174). -/
  | adcGwEw (r : Reg16) (rm : Rm16)
  /-- ADC AL, imm8 (R174). -/
  | adcAlImm8 (imm : Byte)
  /-- ADC AX, imm16 (R174). -/
  | adcAxImm16 (imm : Word)
  /-- SBB Eb, Gb (R175). -/
  | sbbEbGb (rm : Rm8) (r : Reg8)
  /-- SBB Ew, Gw (R175). -/
  | sbbEwGw (rm : Rm16) (r : Reg16)
  /-- SBB Gb, Eb (R175). -/
  | sbbGbEb (r : Reg8) (rm : Rm8)
  /-- SBB Gw, Ew (R175). -/
  | sbbGwEw (r : Reg16) (rm : Rm16)
  /-- SBB AL, imm8 (R175). -/
  | sbbAlImm8 (imm : Byte)
  /-- SBB AX, imm16 (R175). -/
  | sbbAxImm16 (imm : Word)
  /-- AND Eb, Gb (R176). -/
  | andEbGb (rm : Rm8) (r : Reg8)
  /-- AND Ew, Gw (R176). -/
  | andEwGw (rm : Rm16) (r : Reg16)
  /-- AND Gb, Eb (R176). -/
  | andGbEb (r : Reg8) (rm : Rm8)
  /-- AND Gw, Ew (R176). -/
  | andGwEw (r : Reg16) (rm : Rm16)
  /-- AND AL, imm8 (R176). -/
  | andAlImm8 (imm : Byte)
  /-- AND AX, imm16 (R176). -/
  | andAxImm16 (imm : Word)
  /-- SUB Eb, Gb (R177). -/
  | subEbGb (rm : Rm8) (r : Reg8)
  /-- SUB Ew, Gw (R177). -/
  | subEwGw (rm : Rm16) (r : Reg16)
  /-- SUB Gb, Eb (R177). -/
  | subGbEb (r : Reg8) (rm : Rm8)
  /-- SUB Gw, Ew (R177). -/
  | subGwEw (r : Reg16) (rm : Rm16)
  /-- SUB AL, imm8 (R177). -/
  | subAlImm8 (imm : Byte)
  /-- SUB AX, imm16 (R177). -/
  | subAxImm16 (imm : Word)
  /-- XOR Eb, Gb (R178). -/
  | xorEbGb (rm : Rm8) (r : Reg8)
  /-- XOR Ew, Gw (R178). -/
  | xorEwGw (rm : Rm16) (r : Reg16)
  /-- XOR Gb, Eb (R178). -/
  | xorGbEb (r : Reg8) (rm : Rm8)
  /-- XOR Gw, Ew (R178). -/
  | xorGwEw (r : Reg16) (rm : Rm16)
  /-- XOR AL, imm8 (R178). -/
  | xorAlImm8 (imm : Byte)
  /-- XOR AX, imm16 (R178). -/
  | xorAxImm16 (imm : Word)
  /-- CMP Eb, Gb (R179). -/
  | cmpEbGb (rm : Rm8) (r : Reg8)
  /-- CMP Ew, Gw (R179). -/
  | cmpEwGw (rm : Rm16) (r : Reg16)
  /-- CMP Gb, Eb (R179). -/
  | cmpGbEb (r : Reg8) (rm : Rm8)
  /-- CMP Gw, Ew (R179). -/
  | cmpGwEw (r : Reg16) (rm : Rm16)
  /-- CMP AL, imm8 (R179). -/
  | cmpAlImm8 (imm : Byte)
  /-- CMP AX, imm16 (R179). -/
  | cmpAxImm16 (imm : Word)
  /-- INC reg16 (R233). -/
  | incReg16 (r : Reg16)
  /-- DEC reg16 (R234). -/
  | decReg16 (r : Reg16)
  /-- PUSH reg16 (R235). -/
  | pushReg16 (r : Reg16)
  /-- POP reg16 (R236). -/
  | popReg16 (r : Reg16)
  /-- PUSH imm16 (R241). -/
  | pushImm16 (imm : Word)
  /-- IMUL Gw, Ew, imm16 (R318). -/
  | imulGwEwImm16 (r : Reg16) (rm : Rm16) (imm : Word)
  /-- PUSH simm8 (R241). -/
  | pushSimm8 (imm : Byte)
  /-- IMUL Gw, Ew, simm8 (R318). -/
  | imulGwEwSimm8 (r : Reg16) (rm : Rm16) (imm : Byte)
  /-- JO rel8 (R332). -/
  | joRel8 (rel : Byte)
  /-- JNO rel8 (R333). -/
  | jnoRel8 (rel : Byte)
  /-- JB rel8 (R334). -/
  | jbRel8 (rel : Byte)
  /-- JNB rel8 (R335). -/
  | jnbRel8 (rel : Byte)
  /-- JZ rel8 (R336). -/
  | jzRel8 (rel : Byte)
  /-- JNZ rel8 (R337). -/
  | jnzRel8 (rel : Byte)
  /-- JBE rel8 (R338). -/
  | jbeRel8 (rel : Byte)
  /-- JA rel8 (R339). -/
  | jaRel8 (rel : Byte)
  /-- JS rel8 (R340). -/
  | jsRel8 (rel : Byte)
  /-- JNS rel8 (R341). -/
  | jnsRel8 (rel : Byte)
  /-- JP rel8 (R342). -/
  | jpRel8 (rel : Byte)
  /-- JNP rel8 (R343). -/
  | jnpRel8 (rel : Byte)
  /-- JL rel8 (R344). -/
  | jlRel8 (rel : Byte)
  /-- JGE rel8 (R345). -/
  | jgeRel8 (rel : Byte)
  /-- JLE rel8 (R346). -/
  | jleRel8 (rel : Byte)
  /-- JG rel8 (R347). -/
  | jgRel8 (rel : Byte)
  /-- ADD Eb, imm8 (R172). -/
  | addEbImm8 (rm : Rm8) (imm : Byte)
  /-- OR Eb, imm8 (R173). -/
  | orEbImm8 (rm : Rm8) (imm : Byte)
  /-- ADC Eb, imm8 (R174). -/
  | adcEbImm8 (rm : Rm8) (imm : Byte)
  /-- SBB Eb, imm8 (R175). -/
  | sbbEbImm8 (rm : Rm8) (imm : Byte)
  /-- AND Eb, imm8 (R176). -/
  | andEbImm8 (rm : Rm8) (imm : Byte)
  /-- SUB Eb, imm8 (R177). -/
  | subEbImm8 (rm : Rm8) (imm : Byte)
  /-- XOR Eb, imm8 (R178). -/
  | xorEbImm8 (rm : Rm8) (imm : Byte)
  /-- CMP Eb, imm8 (R179). -/
  | cmpEbImm8 (rm : Rm8) (imm : Byte)
  /-- ADD Ew, imm16 (R172). -/
  | addEwImm16 (rm : Rm16) (imm : Word)
  /-- OR Ew, imm16 (R173). -/
  | orEwImm16 (rm : Rm16) (imm : Word)
  /-- ADC Ew, imm16 (R174). -/
  | adcEwImm16 (rm : Rm16) (imm : Word)
  /-- SBB Ew, imm16 (R175). -/
  | sbbEwImm16 (rm : Rm16) (imm : Word)
  /-- AND Ew, imm16 (R176). -/
  | andEwImm16 (rm : Rm16) (imm : Word)
  /-- SUB Ew, imm16 (R177). -/
  | subEwImm16 (rm : Rm16) (imm : Word)
  /-- XOR Ew, imm16 (R178). -/
  | xorEwImm16 (rm : Rm16) (imm : Word)
  /-- CMP Ew, imm16 (R179). -/
  | cmpEwImm16 (rm : Rm16) (imm : Word)
  /-- ADD Ew, simm8 (R172). -/
  | addEwSimm8 (rm : Rm16) (imm : Byte)
  /-- OR Ew, simm8 (R173). -/
  | orEwSimm8 (rm : Rm16) (imm : Byte)
  /-- ADC Ew, simm8 (R174). -/
  | adcEwSimm8 (rm : Rm16) (imm : Byte)
  /-- SBB Ew, simm8 (R175). -/
  | sbbEwSimm8 (rm : Rm16) (imm : Byte)
  /-- AND Ew, simm8 (R176). -/
  | andEwSimm8 (rm : Rm16) (imm : Byte)
  /-- SUB Ew, simm8 (R177). -/
  | subEwSimm8 (rm : Rm16) (imm : Byte)
  /-- XOR Ew, simm8 (R178). -/
  | xorEwSimm8 (rm : Rm16) (imm : Byte)
  /-- CMP Ew, simm8 (R179). -/
  | cmpEwSimm8 (rm : Rm16) (imm : Byte)
  /-- TEST Eb, Gb (R180). -/
  | testEbGb (rm : Rm8) (r : Reg8)
  /-- TEST Ew, Gw (R180). -/
  | testEwGw (rm : Rm16) (r : Reg16)
  /-- XCHG Gb, Eb (R209). -/
  | xchgGbEb (r : Reg8) (rm : Rm8)
  /-- XCHG Gw, Ew (R209). -/
  | xchgGwEw (r : Reg16) (rm : Rm16)
  /-- MOV Eb, Gb (R201). -/
  | movEbGb (rm : Rm8) (r : Reg8)
  /-- MOV Ew, Gw (R201). -/
  | movEwGw (rm : Rm16) (r : Reg16)
  /-- MOV Gb, Eb (R202). -/
  | movGbEb (r : Reg8) (rm : Rm8)
  /-- MOV Gw, Ew (R202). -/
  | movGwEw (r : Reg16) (rm : Rm16)
  /-- MOV Ew, Sw (R206). -/
  | movEwSw (rm : Rm16) (sr : BitVec 3)
  /-- LEA Gw, M (R210). -/
  | leaGwM (r : Reg16) (m : MemOp)
  /-- (LEA with a register operand) (R418). -/
  | leaRegister (rrr : BitVec 3) (iii : BitVec 3)
  /-- MOV Sw, Ew (R207). -/
  | movSwEw (sr : BitVec 3) (rm : Rm16)
  /-- POP Ew (R240). -/
  | popEw (rm : Rm16)
  /-- (8F /1) (R418). -/
  | invalid8Fs1 (mm : BitVec 2) (iii : BitVec 3)
  /-- (8F /2) (R418). -/
  | invalid8Fs2 (mm : BitVec 2) (iii : BitVec 3)
  /-- (8F /3) (R418). -/
  | invalid8Fs3 (mm : BitVec 2) (iii : BitVec 3)
  /-- (8F /4) (R418). -/
  | invalid8Fs4 (mm : BitVec 2) (iii : BitVec 3)
  /-- (8F /5) (R418). -/
  | invalid8Fs5 (mm : BitVec 2) (iii : BitVec 3)
  /-- (8F /6) (R418). -/
  | invalid8Fs6 (mm : BitVec 2) (iii : BitVec 3)
  /-- (8F /7) (R418). -/
  | invalid8Fs7 (mm : BitVec 2) (iii : BitVec 3)
  /-- XCHG AX, reg16 (R208). -/
  | xchgAxReg16 (r : Reg16)
  /-- CALL ptr16:16 (R359). -/
  | callPtr1616 (off : Word) (seg : Word)
  /-- (9B not followed by 9B 9B 9B) (R400). -/
  | nrgBroken (good : Fin 3) (b : Byte)
  /-- MOV AL, [moffs16] (R205). -/
  | movAlMoffs16 (moffs : Word)
  /-- MOV AX, [moffs16] (R205). -/
  | movAxMoffs16 (moffs : Word)
  /-- MOV [moffs16], AL (R205). -/
  | movMoffs16Al (moffs : Word)
  /-- MOV [moffs16], AX (R205). -/
  | movMoffs16Ax (moffs : Word)
  /-- TEST AL, imm8 (R180). -/
  | testAlImm8 (imm : Byte)
  /-- TEST AX, imm16 (R180). -/
  | testAxImm16 (imm : Word)
  /-- MOV reg8, imm8 (R203). -/
  | movReg8Imm8 (r : Reg8) (imm : Byte)
  /-- MOV reg16, imm16 (R203). -/
  | movReg16Imm16 (r : Reg16) (imm : Word)
  /-- ROL Eb, imm8 (R272). -/
  | rolEbImm8 (rm : Rm8) (imm : Byte)
  /-- ROR Eb, imm8 (R273). -/
  | rorEbImm8 (rm : Rm8) (imm : Byte)
  /-- RCL Eb, imm8 (R274). -/
  | rclEbImm8 (rm : Rm8) (imm : Byte)
  /-- RCR Eb, imm8 (R275). -/
  | rcrEbImm8 (rm : Rm8) (imm : Byte)
  /-- SHL Eb, imm8 (R276). -/
  | shlEbImm8 (rm : Rm8) (imm : Byte)
  /-- SHR Eb, imm8 (R277). -/
  | shrEbImm8 (rm : Rm8) (imm : Byte)
  /-- (C0 /6) (R279). -/
  | invalidC0s6 (mm : BitVec 2) (iii : BitVec 3)
  /-- SAR Eb, imm8 (R278). -/
  | sarEbImm8 (rm : Rm8) (imm : Byte)
  /-- ROL Ew, imm8 (R272). -/
  | rolEwImm8 (rm : Rm16) (imm : Byte)
  /-- ROR Ew, imm8 (R273). -/
  | rorEwImm8 (rm : Rm16) (imm : Byte)
  /-- RCL Ew, imm8 (R274). -/
  | rclEwImm8 (rm : Rm16) (imm : Byte)
  /-- RCR Ew, imm8 (R275). -/
  | rcrEwImm8 (rm : Rm16) (imm : Byte)
  /-- SHL Ew, imm8 (R276). -/
  | shlEwImm8 (rm : Rm16) (imm : Byte)
  /-- SHR Ew, imm8 (R277). -/
  | shrEwImm8 (rm : Rm16) (imm : Byte)
  /-- (C1 /6) (R279). -/
  | invalidC1s6 (mm : BitVec 2) (iii : BitVec 3)
  /-- SAR Ew, imm8 (R278). -/
  | sarEwImm8 (rm : Rm16) (imm : Byte)
  /-- ROL Eb, 1 (R272). -/
  | rolEb1 (rm : Rm8)
  /-- ROR Eb, 1 (R273). -/
  | rorEb1 (rm : Rm8)
  /-- RCL Eb, 1 (R274). -/
  | rclEb1 (rm : Rm8)
  /-- RCR Eb, 1 (R275). -/
  | rcrEb1 (rm : Rm8)
  /-- SHL Eb, 1 (R276). -/
  | shlEb1 (rm : Rm8)
  /-- SHR Eb, 1 (R277). -/
  | shrEb1 (rm : Rm8)
  /-- (D0 /6) (R279). -/
  | invalidD0s6 (mm : BitVec 2) (iii : BitVec 3)
  /-- SAR Eb, 1 (R278). -/
  | sarEb1 (rm : Rm8)
  /-- ROL Ew, 1 (R272). -/
  | rolEw1 (rm : Rm16)
  /-- ROR Ew, 1 (R273). -/
  | rorEw1 (rm : Rm16)
  /-- RCL Ew, 1 (R274). -/
  | rclEw1 (rm : Rm16)
  /-- RCR Ew, 1 (R275). -/
  | rcrEw1 (rm : Rm16)
  /-- SHL Ew, 1 (R276). -/
  | shlEw1 (rm : Rm16)
  /-- SHR Ew, 1 (R277). -/
  | shrEw1 (rm : Rm16)
  /-- (D1 /6) (R279). -/
  | invalidD1s6 (mm : BitVec 2) (iii : BitVec 3)
  /-- SAR Ew, 1 (R278). -/
  | sarEw1 (rm : Rm16)
  /-- ROL Eb, CL (R272). -/
  | rolEbCl (rm : Rm8)
  /-- ROR Eb, CL (R273). -/
  | rorEbCl (rm : Rm8)
  /-- RCL Eb, CL (R274). -/
  | rclEbCl (rm : Rm8)
  /-- RCR Eb, CL (R275). -/
  | rcrEbCl (rm : Rm8)
  /-- SHL Eb, CL (R276). -/
  | shlEbCl (rm : Rm8)
  /-- SHR Eb, CL (R277). -/
  | shrEbCl (rm : Rm8)
  /-- (D2 /6) (R279). -/
  | invalidD2s6 (mm : BitVec 2) (iii : BitVec 3)
  /-- SAR Eb, CL (R278). -/
  | sarEbCl (rm : Rm8)
  /-- ROL Ew, CL (R272). -/
  | rolEwCl (rm : Rm16)
  /-- ROR Ew, CL (R273). -/
  | rorEwCl (rm : Rm16)
  /-- RCL Ew, CL (R274). -/
  | rclEwCl (rm : Rm16)
  /-- RCR Ew, CL (R275). -/
  | rcrEwCl (rm : Rm16)
  /-- SHL Ew, CL (R276). -/
  | shlEwCl (rm : Rm16)
  /-- SHR Ew, CL (R277). -/
  | shrEwCl (rm : Rm16)
  /-- (D3 /6) (R279). -/
  | invalidD3s6 (mm : BitVec 2) (iii : BitVec 3)
  /-- SAR Ew, CL (R278). -/
  | sarEwCl (rm : Rm16)
  /-- RET imm16 (R363). -/
  | retImm16 (imm : Word)
  /-- LES Gw, M (R213). -/
  | lesGwM (r : Reg16) (m : MemOp)
  /-- (LES with a register operand) (R418). -/
  | lesRegister (rrr : BitVec 3) (iii : BitVec 3)
  /-- LDS Gw, M (R214). -/
  | ldsGwM (r : Reg16) (m : MemOp)
  /-- (LDS with a register operand) (R418). -/
  | ldsRegister (rrr : BitVec 3) (iii : BitVec 3)
  /-- MOV Eb, imm8 (R204). -/
  | movEbImm8 (rm : Rm8) (imm : Byte)
  /-- MOV Ew, imm16 (R204). -/
  | movEwImm16 (rm : Rm16) (imm : Word)
  /-- (C6 /1) (R418). -/
  | invalidC6s1 (mm : BitVec 2) (iii : BitVec 3)
  /-- (C6 /2) (R418). -/
  | invalidC6s2 (mm : BitVec 2) (iii : BitVec 3)
  /-- (C6 /3) (R418). -/
  | invalidC6s3 (mm : BitVec 2) (iii : BitVec 3)
  /-- (C6 /4) (R418). -/
  | invalidC6s4 (mm : BitVec 2) (iii : BitVec 3)
  /-- (C6 /5) (R418). -/
  | invalidC6s5 (mm : BitVec 2) (iii : BitVec 3)
  /-- (C6 /6) (R418). -/
  | invalidC6s6 (mm : BitVec 2) (iii : BitVec 3)
  /-- (C6 /7) (R418). -/
  | invalidC6s7 (mm : BitVec 2) (iii : BitVec 3)
  /-- (C7 /1) (R418). -/
  | invalidC7s1 (mm : BitVec 2) (iii : BitVec 3)
  /-- (C7 /2) (R418). -/
  | invalidC7s2 (mm : BitVec 2) (iii : BitVec 3)
  /-- (C7 /3) (R418). -/
  | invalidC7s3 (mm : BitVec 2) (iii : BitVec 3)
  /-- (C7 /4) (R418). -/
  | invalidC7s4 (mm : BitVec 2) (iii : BitVec 3)
  /-- (C7 /5) (R418). -/
  | invalidC7s5 (mm : BitVec 2) (iii : BitVec 3)
  /-- (C7 /6) (R418). -/
  | invalidC7s6 (mm : BitVec 2) (iii : BitVec 3)
  /-- (C7 /7) (R418). -/
  | invalidC7s7 (mm : BitVec 2) (iii : BitVec 3)
  /-- ENTER imm16, imm8 (R244). -/
  | enterImm16Imm8 (size : Word) (level : Byte)
  /-- RETF imm16 (R365). -/
  | retfImm16 (imm : Word)
  /-- INT imm8 (R371). -/
  | intImm8 (imm : Byte)
  /-- ESC 0 to 7 (FPU) (R412). -/
  | esc (n : BitVec 3)
  /-- LOOPNZ rel8 (R350). -/
  | loopnzRel8 (rel : Byte)
  /-- LOOPZ rel8 (R349). -/
  | loopzRel8 (rel : Byte)
  /-- LOOP rel8 (R348). -/
  | loopRel8 (rel : Byte)
  /-- JCXZ rel8 (R351). -/
  | jcxzRel8 (rel : Byte)
  /-- CALL rel16 (R358). -/
  | callRel16 (rel : Word)
  /-- JMP rel16 (R353). -/
  | jmpRel16 (rel : Word)
  /-- JMP ptr16:16 (R355). -/
  | jmpPtr1616 (off : Word) (seg : Word)
  /-- JMP rel8 (R354). -/
  | jmpRel8 (rel : Byte)
  /-- (REPNZ prefix not followed by a string opcode) (R297). -/
  | repnzBroken (b : Byte)
  /-- (REP prefix not followed by a string opcode) (R297). -/
  | repBroken (b : Byte)
  /-- TEST Eb, imm8 (R180). -/
  | testEbImm8 (rm : Rm8) (imm : Byte)
  /-- (F6 /1) (R319). -/
  | invalidF6s1 (mm : BitVec 2) (iii : BitVec 3)
  /-- NOT Eb (R312). -/
  | notEb (rm : Rm8)
  /-- NEG Eb (R313). -/
  | negEb (rm : Rm8)
  /-- MUL Eb (R314). -/
  | mulEb (rm : Rm8)
  /-- IMUL Eb (R315). -/
  | imulEb (rm : Rm8)
  /-- DIV Eb (R316). -/
  | divEb (rm : Rm8)
  /-- IDIV Eb (R317). -/
  | idivEb (rm : Rm8)
  /-- TEST Ew, imm16 (R180). -/
  | testEwImm16 (rm : Rm16) (imm : Word)
  /-- (F7 /1) (R319). -/
  | invalidF7s1 (mm : BitVec 2) (iii : BitVec 3)
  /-- NOT Ew (R312). -/
  | notEw (rm : Rm16)
  /-- NEG Ew (R313). -/
  | negEw (rm : Rm16)
  /-- MUL Ew (R314). -/
  | mulEw (rm : Rm16)
  /-- IMUL Ew (R315). -/
  | imulEw (rm : Rm16)
  /-- DIV Ew (R316). -/
  | divEw (rm : Rm16)
  /-- IDIV Ew (R317). -/
  | idivEw (rm : Rm16)
  /-- INC Eb (R233). -/
  | incEb (rm : Rm8)
  /-- DEC Eb (R234). -/
  | decEb (rm : Rm8)
  /-- (FE /2) (R418). -/
  | invalidFEs2 (mm : BitVec 2) (iii : BitVec 3)
  /-- (FE /3) (R418). -/
  | invalidFEs3 (mm : BitVec 2) (iii : BitVec 3)
  /-- (FE /4) (R418). -/
  | invalidFEs4 (mm : BitVec 2) (iii : BitVec 3)
  /-- (FE /5) (R418). -/
  | invalidFEs5 (mm : BitVec 2) (iii : BitVec 3)
  /-- (FE /6) (R418). -/
  | invalidFEs6 (mm : BitVec 2) (iii : BitVec 3)
  /-- (FE /7) (R418). -/
  | invalidFEs7 (mm : BitVec 2) (iii : BitVec 3)
  /-- INC Ew (R233). -/
  | incEw (rm : Rm16)
  /-- DEC Ew (R234). -/
  | decEw (rm : Rm16)
  /-- CALL Ew (R360). -/
  | callEw (rm : Rm16)
  /-- CALL far M (R361). -/
  | callFarM (m : MemOp)
  /-- JMP Ew (R356). -/
  | jmpEw (rm : Rm16)
  /-- JMP far M (R357). -/
  | jmpFarM (m : MemOp)
  /-- PUSH Ew (R239). -/
  | pushEw (rm : Rm16)
  /-- (FF /7) (R418). -/
  | invalidFFs7 (mm : BitVec 2) (iii : BitVec 3)
  /-- (CALL far with a register operand) (R418). -/
  | callFarRegister (iii : BitVec 3)
  /-- (JMP far with a register operand) (R418). -/
  | jmpFarRegister (iii : BitVec 3)
  /-- PUSH ES (R237). -/
  | pushEs
  /-- PUSH CS (R237). -/
  | pushCs
  /-- PUSH SS (R237). -/
  | pushSs
  /-- PUSH DS (R237). -/
  | pushDs
  /-- POP ES (R238). -/
  | popEs
  /-- POP SS (R238). -/
  | popSs
  /-- POP DS (R238). -/
  | popDs
  /-- (0F: not an instruction) (R417). -/
  | invalid0F
  /-- ES: override (R410). -/
  | esOverride
  /-- CS: override (R410). -/
  | csOverride
  /-- SS: override (R410). -/
  | ssOverride
  /-- DS: override (R410). -/
  | dsOverride
  /-- DAA (R411). -/
  | daa
  /-- DAS (R411). -/
  | das
  /-- AAA (R411). -/
  | aaa
  /-- AAS (R411). -/
  | aas
  /-- AAM (R411). -/
  | aam
  /-- AAD (R411). -/
  | aad
  /-- PUSHA (R242). -/
  | pusha
  /-- POPA (R243). -/
  | popa
  /-- BOUND (R416). -/
  | bound
  /-- (63: not an instruction) (R417). -/
  | invalid63
  /-- (64: not an instruction) (R417). -/
  | invalid64
  /-- (65: not an instruction) (R417). -/
  | invalid65
  /-- (66: not an instruction) (R417). -/
  | invalid66
  /-- (67: not an instruction) (R417). -/
  | invalid67
  /-- INSB (R413). -/
  | insb
  /-- INSW (R413). -/
  | insw
  /-- OUTSB (R413). -/
  | outsb
  /-- OUTSW (R413). -/
  | outsw
  /-- (82: not an instruction here) (R417). -/
  | invalid82
  /-- NOP (R208). -/
  | nop
  /-- CBW (R212). -/
  | cbw
  /-- CWD (R215). -/
  | cwd
  /-- NRG (R400). -/
  | nrg
  /-- PUSHF (R390). -/
  | pushf
  /-- POPF (R391). -/
  | popf
  /-- SAHF (R389). -/
  | sahf
  /-- LAHF (R388). -/
  | lahf
  /-- MOVSB (R292). -/
  | movsb
  /-- MOVSW (R292). -/
  | movsw
  /-- CMPSB (R293). -/
  | cmpsb
  /-- CMPSW (R293). -/
  | cmpsw
  /-- STOSB (R294). -/
  | stosb
  /-- STOSW (R294). -/
  | stosw
  /-- LODSB (R295). -/
  | lodsb
  /-- LODSW (R295). -/
  | lodsw
  /-- SCASB (R296). -/
  | scasb
  /-- SCASW (R296). -/
  | scasw
  /-- RET (R362). -/
  | ret
  /-- LEAVE (R245). -/
  | leave
  /-- RETF (R364). -/
  | retf
  /-- INT3 (R373). -/
  | int3
  /-- INT 0x86 (R402). -/
  | int86
  /-- INT 0x87 (R403). -/
  | int87
  /-- INT 0x88 (R404). -/
  | int88
  /-- INTO (R374). -/
  | into
  /-- IRET (R372). -/
  | iret
  /-- (D6: not an instruction) (R417). -/
  | invalidD6
  /-- XLAT (R211). -/
  | xlat
  /-- IN AL, imm8 (R413). -/
  | inAlImm8
  /-- IN AX, imm8 (R413). -/
  | inAxImm8
  /-- OUT imm8, AL (R413). -/
  | outImm8Al
  /-- OUT imm8, AX (R413). -/
  | outImm8Ax
  /-- IN AL, DX (R413). -/
  | inAlDx
  /-- IN AX, DX (R413). -/
  | inAxDx
  /-- OUT DX, AL (R413). -/
  | outDxAl
  /-- OUT DX, AX (R413). -/
  | outDxAx
  /-- LOCK (R414). -/
  | lock
  /-- (F1: not an instruction) (R417). -/
  | invalidF1
  /-- REPNZ MOVSB (R291). -/
  | repnzMovsb
  /-- REPNZ MOVSW (R291). -/
  | repnzMovsw
  /-- REPNZ CMPSB (R291). -/
  | repnzCmpsb
  /-- REPNZ CMPSW (R291). -/
  | repnzCmpsw
  /-- REPNZ STOSB (R291). -/
  | repnzStosb
  /-- REPNZ STOSW (R291). -/
  | repnzStosw
  /-- REPNZ LODSB (R291). -/
  | repnzLodsb
  /-- REPNZ LODSW (R291). -/
  | repnzLodsw
  /-- REPNZ SCASB (R291). -/
  | repnzScasb
  /-- REPNZ SCASW (R291). -/
  | repnzScasw
  /-- REP MOVSB (R291). -/
  | repMovsb
  /-- REP MOVSW (R291). -/
  | repMovsw
  /-- REPZ CMPSB (R291). -/
  | repzCmpsb
  /-- REPZ CMPSW (R291). -/
  | repzCmpsw
  /-- REP STOSB (R291). -/
  | repStosb
  /-- REP STOSW (R291). -/
  | repStosw
  /-- REP LODSB (R291). -/
  | repLodsb
  /-- REP LODSW (R291). -/
  | repLodsw
  /-- REPZ SCASB (R291). -/
  | repzScasb
  /-- REPZ SCASW (R291). -/
  | repzScasw
  /-- HLT (R415). -/
  | hlt
  /-- CMC (R383). -/
  | cmc
  /-- CLC (R381). -/
  | clc
  /-- STC (R382). -/
  | stc
  /-- CLI (R386). -/
  | cli
  /-- STI (R387). -/
  | sti
  /-- CLD (R384). -/
  | cld
  /-- STD (R385). -/
  | std
deriving DecidableEq, Repr

end Sys2Proof
end

