-- ==== Sys2Proof/Machine/Operands.lean ====
section
/-! DEFINITION. Operands: the register accessors (R22, R24, R25, R31), the effective address (R117, R118) and the
uniform operand access (R120). -/

namespace Sys2Proof.Machine

/-! ### Registers -/

/-- `reg16[i]` (R24). -/
def Hart.get16 (h : Hart) : Reg16 → Word
  | .AX => h.AX
  | .CX => h.CX
  | .DX => h.DX
  | .BX => h.BX
  | .SP => h.SP
  | .BP => h.BP
  | .SI => h.SI
  | .DI => h.DI

/-- `reg16[i] <- v` (R24). -/
def Hart.set16 (h : Hart) (r : Reg16) (v : Word) : Hart :=
  match r with
  | .AX => { h with AX := v }
  | .CX => { h with CX := v }
  | .DX => { h with DX := v }
  | .BX => { h with BX := v }
  | .SP => { h with SP := v }
  | .BP => { h with BP := v }
  | .SI => { h with SI := v }
  | .DI => { h with DI := v }

/-- `reg8[i]` (R22, R25). -/
def Hart.get8 (h : Hart) : Reg8 → Byte
  | .AL => lowByte h.AX
  | .CL => lowByte h.CX
  | .DL => lowByte h.DX
  | .BL => lowByte h.BX
  | .AH => highByte h.AX
  | .CH => highByte h.CX
  | .DH => highByte h.DX
  | .BH => highByte h.BX

/-- A word with its low byte replaced (R22). -/
def setLow (w : Word) (b : Byte) : Word := joinBytes (highByte w) b

/-- A word with its high byte replaced (R22). -/
def setHigh (w : Word) (b : Byte) : Word := joinBytes b (lowByte w)

/-- `reg8[i] <- v`: the other half stays (R22, R25). -/
def Hart.set8 (h : Hart) (r : Reg8) (v : Byte) : Hart :=
  match r with
  | .AL => { h with AX := setLow h.AX v }
  | .CL => { h with CX := setLow h.CX v }
  | .DL => { h with DX := setLow h.DX v }
  | .BL => { h with BX := setLow h.BX v }
  | .AH => { h with AX := setHigh h.AX v }
  | .CH => { h with CX := setHigh h.CX v }
  | .DH => { h with DX := setHigh h.DX v }
  | .BH => { h with BX := setHigh h.BX v }

/-- The segment register that a 3-bit index selects: the table repeats (R31, R132). -/
def sregOfIndex (i : BitVec 3) : Sreg :=
  match i.toNat % 4 with
  | 0 => .ES
  | 1 => .CS
  | 2 => .SS
  | _ => .DS

/-- A segment register's value (R31). -/
def Hart.getSreg (h : Hart) : Sreg → Word
  | .ES => h.ES
  | .CS => h.CS
  | .SS => h.SS
  | .DS => h.DS

/-- A segment register's assignment (R31, R32). -/
def Hart.setSreg (h : Hart) (r : Sreg) (v : Word) : Hart :=
  match r with
  | .ES => { h with ES := v }
  | .CS => { h with CS := v }
  | .SS => { h with SS := v }
  | .DS => { h with DS := v }

/-! ### Effective addresses -/

/-- The sum of the registers of a base/index pair (R117, R118). -/
def Hart.baseSum (h : Hart) : Base → Word
  | .bxSi => h.BX + h.SI
  | .bxDi => h.BX + h.DI
  | .bpSi => h.BP + h.SI
  | .bpDi => h.BP + h.DI
  | .si => h.SI
  | .di => h.DI
  | .bp => h.BP
  | .bx => h.BX

/-- The segment of a base/index pair: SS where BP is the base, else DS (R117). -/
def Hart.baseSeg (h : Hart) : Base → Word
  | .bpSi | .bpDi | .bp => h.SS
  | .bxSi | .bxDi | .si | .di | .bx => h.DS

/-- The effective address of a memory operand (R118): the offset wraps, the segment is untouched. -/
def Hart.ea (h : Hart) : MemOp → Addr
  | .absolute d => ⟨h.DS, d⟩
  | .plain b => ⟨h.baseSeg b, h.baseSum b⟩
  | .disp8 b d => ⟨h.baseSeg b, h.baseSum b + sext8 d⟩
  | .disp16 b d => ⟨h.baseSeg b, h.baseSum b + d⟩

/-! ### Uniform operand access -/

/-- An operand as its two accessors (R120); an immediate is only read. -/
structure Operand (n : Nat) where
  get : Exec (BitVec n)
  set : BitVec n → Exec Unit

/-- `reg8[i]` as an operand. -/
def byteReg (r : Reg8) : Operand 8 where
  get := do
    let h ← getHart
    pure (h.get8 r)
  set v := modHart fun h => h.set8 r v

/-- `reg16[i]` as an operand. -/
def wordReg (r : Reg16) : Operand 16 where
  get := do
    let h ← getHart
    pure (h.get16 r)
  set v := modHart fun h => h.set16 r v

/-- The byte at an address as an operand. -/
def byteAt (a : Addr) : Operand 8 where
  get := memRead8 a
  set v := memWrite8 a v

/-- The word at an address as an operand. -/
def wordAt (a : Addr) : Operand 16 where
  get := memRead16 a
  set v := memWrite16 a v

/-- An immediate as an operand; nothing assigns one. -/
def immediate {n : Nat} (v : BitVec n) : Operand n where
  get := pure v
  set _ := pure ()

/-- The resolved `Eb` operand: the address by the registers as they are now (R118, R120). -/
def Hart.operand8 (h : Hart) : Rm8 → Operand 8
  | .reg r => byteReg r
  | .mem m => byteAt (h.ea m)

/-- The resolved `Ew` operand (R118, R120). -/
def Hart.operand16 (h : Hart) : Rm16 → Operand 16
  | .reg r => wordReg r
  | .mem m => wordAt (h.ea m)

/-- Resolves an `Eb` operand before the instruction does anything (R118). -/
def withRm8 (rm : Rm8) (k : Operand 8 → Exec Unit) : Exec Unit := do
  let h ← getHart
  k (h.operand8 rm)

/-- Resolves an `Ew` operand before the instruction does anything (R118). -/
def withRm16 (rm : Rm16) (k : Operand 16 → Exec Unit) : Exec Unit := do
  let h ← getHart
  k (h.operand16 rm)

/-- A far pointer in memory (R352): the offset word, then the segment word two bytes on. -/
def readFarPointer (a : Addr) : Exec (Word × Word) := do
  let o ← memRead16 a
  let s ← memRead16 (addOffset a 2)
  pure (o, s)

end Sys2Proof.Machine
end

