-- ==== Sys2Proof/Machine/Alu.lean ====
section
/-! DEFINITION. The two-operand ALU family (40_alu.md): ADD, OR, ADC, SBB, AND, SUB, XOR, CMP, TEST. -/

namespace Sys2Proof.Machine

/-! ### The family, once -/

/-- The operations of the family (R170, R180). -/
inductive AluOp where
  | add
  | or
  | adc
  | sbb
  | and
  | sub
  | xor
  | cmp
  | test
deriving DecidableEq, Repr

/-- CMP and TEST do not write their destination (R179, R180). -/
def AluOp.writes : AluOp → Bool
  | .cmp | .test => false
  | .add | .or | .adc | .sbb | .and | .sub | .xor => true

/-- AND, OR, XOR, TEST leave AF to `UNDEF` (R173, R176, R178, R180). -/
def AluOp.leavesUndefined : AluOp → Bool
  | .or | .and | .xor | .test => true
  | .add | .adc | .sbb | .sub | .cmp => false

/-- `f_X(a, b, FLAGS)` (R171 to R180): the result and FLAGS after; `u` is the `UNDEF` word. -/
def AluOp.apply {n : Nat} (op : AluOp) (a b : BitVec n) (f : Flags) (u : Word) : BitVec n × Flags :=
  match op with
  | .add => ((addN a b false).result, f.setArith (addN a b false))
  | .adc => ((addN a b f.CF).result, f.setArith (addN a b f.CF))
  | .sub | .cmp => ((subN a b false).result, f.setArith (subN a b false))
  | .sbb => ((subN a b f.CF).result, f.setArith (subN a b f.CF))
  | .or => (a ||| b, f.setLogic (a ||| b) u)
  | .and | .test => (a &&& b, f.setLogic (a &&& b) u)
  | .xor => (a ^^^ b, f.setLogic (a ^^^ b) u)

/-- Takes an `UNDEF` word if one is needed. -/
def freeFlagsIf (needed : Bool) : Exec Word := if needed then freeFlags else pure 0

/-- The common operation of the family (R171). -/
def alu {n : Nat} (op : AluOp) (dst src : Operand n) : Exec Unit := do
  let a ← dst.get
  let b ← src.get
  let u ← freeFlagsIf op.leavesUndefined
  let h ← getHart
  modFlags fun _ => (op.apply a b h.flags u).2
  if op.writes then dst.set (op.apply a b h.flags u).1 else pure ()

/-! ### The meanings -/

/-- ADD Eb, Gb (R172). -/
def execAddEbGb (rm : Rm8) (r : Reg8) (s : State) : Answer :=
  perform (withRm8 rm fun d => alu .add d (byteReg r)) s

/-- ADD Ew, Gw (R172). -/
def execAddEwGw (rm : Rm16) (r : Reg16) (s : State) : Answer :=
  perform (withRm16 rm fun d => alu .add d (wordReg r)) s

/-- ADD Gb, Eb (R172). -/
def execAddGbEb (r : Reg8) (rm : Rm8) (s : State) : Answer :=
  perform (withRm8 rm fun e => alu .add (byteReg r) e) s

/-- ADD Gw, Ew (R172). -/
def execAddGwEw (r : Reg16) (rm : Rm16) (s : State) : Answer :=
  perform (withRm16 rm fun e => alu .add (wordReg r) e) s

/-- ADD AL, imm8 (R172). -/
def execAddAlImm8 (imm : Byte) (s : State) : Answer :=
  perform (alu .add (byteReg .AL) (immediate imm)) s

/-- ADD AX, imm16 (R172). -/
def execAddAxImm16 (imm : Word) (s : State) : Answer :=
  perform (alu .add (wordReg .AX) (immediate imm)) s

/-- OR Eb, Gb (R173). -/
def execOrEbGb (rm : Rm8) (r : Reg8) (s : State) : Answer :=
  perform (withRm8 rm fun d => alu .or d (byteReg r)) s

/-- OR Ew, Gw (R173). -/
def execOrEwGw (rm : Rm16) (r : Reg16) (s : State) : Answer :=
  perform (withRm16 rm fun d => alu .or d (wordReg r)) s

/-- OR Gb, Eb (R173). -/
def execOrGbEb (r : Reg8) (rm : Rm8) (s : State) : Answer :=
  perform (withRm8 rm fun e => alu .or (byteReg r) e) s

/-- OR Gw, Ew (R173). -/
def execOrGwEw (r : Reg16) (rm : Rm16) (s : State) : Answer :=
  perform (withRm16 rm fun e => alu .or (wordReg r) e) s

/-- OR AL, imm8 (R173). -/
def execOrAlImm8 (imm : Byte) (s : State) : Answer :=
  perform (alu .or (byteReg .AL) (immediate imm)) s

/-- OR AX, imm16 (R173). -/
def execOrAxImm16 (imm : Word) (s : State) : Answer :=
  perform (alu .or (wordReg .AX) (immediate imm)) s

/-- ADC Eb, Gb (R174). -/
def execAdcEbGb (rm : Rm8) (r : Reg8) (s : State) : Answer :=
  perform (withRm8 rm fun d => alu .adc d (byteReg r)) s

/-- ADC Ew, Gw (R174). -/
def execAdcEwGw (rm : Rm16) (r : Reg16) (s : State) : Answer :=
  perform (withRm16 rm fun d => alu .adc d (wordReg r)) s

/-- ADC Gb, Eb (R174). -/
def execAdcGbEb (r : Reg8) (rm : Rm8) (s : State) : Answer :=
  perform (withRm8 rm fun e => alu .adc (byteReg r) e) s

/-- ADC Gw, Ew (R174). -/
def execAdcGwEw (r : Reg16) (rm : Rm16) (s : State) : Answer :=
  perform (withRm16 rm fun e => alu .adc (wordReg r) e) s

/-- ADC AL, imm8 (R174). -/
def execAdcAlImm8 (imm : Byte) (s : State) : Answer :=
  perform (alu .adc (byteReg .AL) (immediate imm)) s

/-- ADC AX, imm16 (R174). -/
def execAdcAxImm16 (imm : Word) (s : State) : Answer :=
  perform (alu .adc (wordReg .AX) (immediate imm)) s

/-- SBB Eb, Gb (R175). -/
def execSbbEbGb (rm : Rm8) (r : Reg8) (s : State) : Answer :=
  perform (withRm8 rm fun d => alu .sbb d (byteReg r)) s

/-- SBB Ew, Gw (R175). -/
def execSbbEwGw (rm : Rm16) (r : Reg16) (s : State) : Answer :=
  perform (withRm16 rm fun d => alu .sbb d (wordReg r)) s

/-- SBB Gb, Eb (R175). -/
def execSbbGbEb (r : Reg8) (rm : Rm8) (s : State) : Answer :=
  perform (withRm8 rm fun e => alu .sbb (byteReg r) e) s

/-- SBB Gw, Ew (R175). -/
def execSbbGwEw (r : Reg16) (rm : Rm16) (s : State) : Answer :=
  perform (withRm16 rm fun e => alu .sbb (wordReg r) e) s

/-- SBB AL, imm8 (R175). -/
def execSbbAlImm8 (imm : Byte) (s : State) : Answer :=
  perform (alu .sbb (byteReg .AL) (immediate imm)) s

/-- SBB AX, imm16 (R175). -/
def execSbbAxImm16 (imm : Word) (s : State) : Answer :=
  perform (alu .sbb (wordReg .AX) (immediate imm)) s

/-- AND Eb, Gb (R176). -/
def execAndEbGb (rm : Rm8) (r : Reg8) (s : State) : Answer :=
  perform (withRm8 rm fun d => alu .and d (byteReg r)) s

/-- AND Ew, Gw (R176). -/
def execAndEwGw (rm : Rm16) (r : Reg16) (s : State) : Answer :=
  perform (withRm16 rm fun d => alu .and d (wordReg r)) s

/-- AND Gb, Eb (R176). -/
def execAndGbEb (r : Reg8) (rm : Rm8) (s : State) : Answer :=
  perform (withRm8 rm fun e => alu .and (byteReg r) e) s

/-- AND Gw, Ew (R176). -/
def execAndGwEw (r : Reg16) (rm : Rm16) (s : State) : Answer :=
  perform (withRm16 rm fun e => alu .and (wordReg r) e) s

/-- AND AL, imm8 (R176). -/
def execAndAlImm8 (imm : Byte) (s : State) : Answer :=
  perform (alu .and (byteReg .AL) (immediate imm)) s

/-- AND AX, imm16 (R176). -/
def execAndAxImm16 (imm : Word) (s : State) : Answer :=
  perform (alu .and (wordReg .AX) (immediate imm)) s

/-- SUB Eb, Gb (R177). -/
def execSubEbGb (rm : Rm8) (r : Reg8) (s : State) : Answer :=
  perform (withRm8 rm fun d => alu .sub d (byteReg r)) s

/-- SUB Ew, Gw (R177). -/
def execSubEwGw (rm : Rm16) (r : Reg16) (s : State) : Answer :=
  perform (withRm16 rm fun d => alu .sub d (wordReg r)) s

/-- SUB Gb, Eb (R177). -/
def execSubGbEb (r : Reg8) (rm : Rm8) (s : State) : Answer :=
  perform (withRm8 rm fun e => alu .sub (byteReg r) e) s

/-- SUB Gw, Ew (R177). -/
def execSubGwEw (r : Reg16) (rm : Rm16) (s : State) : Answer :=
  perform (withRm16 rm fun e => alu .sub (wordReg r) e) s

/-- SUB AL, imm8 (R177). -/
def execSubAlImm8 (imm : Byte) (s : State) : Answer :=
  perform (alu .sub (byteReg .AL) (immediate imm)) s

/-- SUB AX, imm16 (R177). -/
def execSubAxImm16 (imm : Word) (s : State) : Answer :=
  perform (alu .sub (wordReg .AX) (immediate imm)) s

/-- XOR Eb, Gb (R178). -/
def execXorEbGb (rm : Rm8) (r : Reg8) (s : State) : Answer :=
  perform (withRm8 rm fun d => alu .xor d (byteReg r)) s

/-- XOR Ew, Gw (R178). -/
def execXorEwGw (rm : Rm16) (r : Reg16) (s : State) : Answer :=
  perform (withRm16 rm fun d => alu .xor d (wordReg r)) s

/-- XOR Gb, Eb (R178). -/
def execXorGbEb (r : Reg8) (rm : Rm8) (s : State) : Answer :=
  perform (withRm8 rm fun e => alu .xor (byteReg r) e) s

/-- XOR Gw, Ew (R178). -/
def execXorGwEw (r : Reg16) (rm : Rm16) (s : State) : Answer :=
  perform (withRm16 rm fun e => alu .xor (wordReg r) e) s

/-- XOR AL, imm8 (R178). -/
def execXorAlImm8 (imm : Byte) (s : State) : Answer :=
  perform (alu .xor (byteReg .AL) (immediate imm)) s

/-- XOR AX, imm16 (R178). -/
def execXorAxImm16 (imm : Word) (s : State) : Answer :=
  perform (alu .xor (wordReg .AX) (immediate imm)) s

/-- CMP Eb, Gb (R179). -/
def execCmpEbGb (rm : Rm8) (r : Reg8) (s : State) : Answer :=
  perform (withRm8 rm fun d => alu .cmp d (byteReg r)) s

/-- CMP Ew, Gw (R179). -/
def execCmpEwGw (rm : Rm16) (r : Reg16) (s : State) : Answer :=
  perform (withRm16 rm fun d => alu .cmp d (wordReg r)) s

/-- CMP Gb, Eb (R179). -/
def execCmpGbEb (r : Reg8) (rm : Rm8) (s : State) : Answer :=
  perform (withRm8 rm fun e => alu .cmp (byteReg r) e) s

/-- CMP Gw, Ew (R179). -/
def execCmpGwEw (r : Reg16) (rm : Rm16) (s : State) : Answer :=
  perform (withRm16 rm fun e => alu .cmp (wordReg r) e) s

/-- CMP AL, imm8 (R179). -/
def execCmpAlImm8 (imm : Byte) (s : State) : Answer :=
  perform (alu .cmp (byteReg .AL) (immediate imm)) s

/-- CMP AX, imm16 (R179). -/
def execCmpAxImm16 (imm : Word) (s : State) : Answer :=
  perform (alu .cmp (wordReg .AX) (immediate imm)) s

/-- ADD Eb, imm8 (R172). -/
def execAddEbImm8 (rm : Rm8) (imm : Byte) (s : State) : Answer :=
  perform (withRm8 rm fun d => alu .add d (immediate imm)) s

/-- OR Eb, imm8 (R173). -/
def execOrEbImm8 (rm : Rm8) (imm : Byte) (s : State) : Answer :=
  perform (withRm8 rm fun d => alu .or d (immediate imm)) s

/-- ADC Eb, imm8 (R174). -/
def execAdcEbImm8 (rm : Rm8) (imm : Byte) (s : State) : Answer :=
  perform (withRm8 rm fun d => alu .adc d (immediate imm)) s

/-- SBB Eb, imm8 (R175). -/
def execSbbEbImm8 (rm : Rm8) (imm : Byte) (s : State) : Answer :=
  perform (withRm8 rm fun d => alu .sbb d (immediate imm)) s

/-- AND Eb, imm8 (R176). -/
def execAndEbImm8 (rm : Rm8) (imm : Byte) (s : State) : Answer :=
  perform (withRm8 rm fun d => alu .and d (immediate imm)) s

/-- SUB Eb, imm8 (R177). -/
def execSubEbImm8 (rm : Rm8) (imm : Byte) (s : State) : Answer :=
  perform (withRm8 rm fun d => alu .sub d (immediate imm)) s

/-- XOR Eb, imm8 (R178). -/
def execXorEbImm8 (rm : Rm8) (imm : Byte) (s : State) : Answer :=
  perform (withRm8 rm fun d => alu .xor d (immediate imm)) s

/-- CMP Eb, imm8 (R179). -/
def execCmpEbImm8 (rm : Rm8) (imm : Byte) (s : State) : Answer :=
  perform (withRm8 rm fun d => alu .cmp d (immediate imm)) s

/-- ADD Ew, imm16 (R172). -/
def execAddEwImm16 (rm : Rm16) (imm : Word) (s : State) : Answer :=
  perform (withRm16 rm fun d => alu .add d (immediate imm)) s

/-- OR Ew, imm16 (R173). -/
def execOrEwImm16 (rm : Rm16) (imm : Word) (s : State) : Answer :=
  perform (withRm16 rm fun d => alu .or d (immediate imm)) s

/-- ADC Ew, imm16 (R174). -/
def execAdcEwImm16 (rm : Rm16) (imm : Word) (s : State) : Answer :=
  perform (withRm16 rm fun d => alu .adc d (immediate imm)) s

/-- SBB Ew, imm16 (R175). -/
def execSbbEwImm16 (rm : Rm16) (imm : Word) (s : State) : Answer :=
  perform (withRm16 rm fun d => alu .sbb d (immediate imm)) s

/-- AND Ew, imm16 (R176). -/
def execAndEwImm16 (rm : Rm16) (imm : Word) (s : State) : Answer :=
  perform (withRm16 rm fun d => alu .and d (immediate imm)) s

/-- SUB Ew, imm16 (R177). -/
def execSubEwImm16 (rm : Rm16) (imm : Word) (s : State) : Answer :=
  perform (withRm16 rm fun d => alu .sub d (immediate imm)) s

/-- XOR Ew, imm16 (R178). -/
def execXorEwImm16 (rm : Rm16) (imm : Word) (s : State) : Answer :=
  perform (withRm16 rm fun d => alu .xor d (immediate imm)) s

/-- CMP Ew, imm16 (R179). -/
def execCmpEwImm16 (rm : Rm16) (imm : Word) (s : State) : Answer :=
  perform (withRm16 rm fun d => alu .cmp d (immediate imm)) s

/-- ADD Ew, simm8 (R172). -/
def execAddEwSimm8 (rm : Rm16) (imm : Byte) (s : State) : Answer :=
  perform (withRm16 rm fun d => alu .add d (immediate (sext8 imm))) s

/-- OR Ew, simm8 (R173). -/
def execOrEwSimm8 (rm : Rm16) (imm : Byte) (s : State) : Answer :=
  perform (withRm16 rm fun d => alu .or d (immediate (sext8 imm))) s

/-- ADC Ew, simm8 (R174). -/
def execAdcEwSimm8 (rm : Rm16) (imm : Byte) (s : State) : Answer :=
  perform (withRm16 rm fun d => alu .adc d (immediate (sext8 imm))) s

/-- SBB Ew, simm8 (R175). -/
def execSbbEwSimm8 (rm : Rm16) (imm : Byte) (s : State) : Answer :=
  perform (withRm16 rm fun d => alu .sbb d (immediate (sext8 imm))) s

/-- AND Ew, simm8 (R176). -/
def execAndEwSimm8 (rm : Rm16) (imm : Byte) (s : State) : Answer :=
  perform (withRm16 rm fun d => alu .and d (immediate (sext8 imm))) s

/-- SUB Ew, simm8 (R177). -/
def execSubEwSimm8 (rm : Rm16) (imm : Byte) (s : State) : Answer :=
  perform (withRm16 rm fun d => alu .sub d (immediate (sext8 imm))) s

/-- XOR Ew, simm8 (R178). -/
def execXorEwSimm8 (rm : Rm16) (imm : Byte) (s : State) : Answer :=
  perform (withRm16 rm fun d => alu .xor d (immediate (sext8 imm))) s

/-- CMP Ew, simm8 (R179). -/
def execCmpEwSimm8 (rm : Rm16) (imm : Byte) (s : State) : Answer :=
  perform (withRm16 rm fun d => alu .cmp d (immediate (sext8 imm))) s

/-- TEST Eb, Gb (R180). -/
def execTestEbGb (rm : Rm8) (r : Reg8) (s : State) : Answer :=
  perform (withRm8 rm fun d => alu .test d (byteReg r)) s

/-- TEST Ew, Gw (R180). -/
def execTestEwGw (rm : Rm16) (r : Reg16) (s : State) : Answer :=
  perform (withRm16 rm fun d => alu .test d (wordReg r)) s

/-- TEST AL, imm8 (R180). -/
def execTestAlImm8 (imm : Byte) (s : State) : Answer :=
  perform (alu .test (byteReg .AL) (immediate imm)) s

/-- TEST AX, imm16 (R180). -/
def execTestAxImm16 (imm : Word) (s : State) : Answer :=
  perform (alu .test (wordReg .AX) (immediate imm)) s

/-- TEST Eb, imm8 (R180). -/
def execTestEbImm8 (rm : Rm8) (imm : Byte) (s : State) : Answer :=
  perform (withRm8 rm fun d => alu .test d (immediate imm)) s

/-- TEST Ew, imm16 (R180). -/
def execTestEwImm16 (rm : Rm16) (imm : Word) (s : State) : Answer :=
  perform (withRm16 rm fun d => alu .test d (immediate imm)) s

end Sys2Proof.Machine
end

