-- ==== Sys2Proof/Machine/Game.lean ====
section
/-! DEFINITION. The game extensions (48_game_and_unsupported.md sections 1 and 2): NRG and the virtual interrupts 0x86,
0x87, 0x88, with the effects R400 to R404 give them (log 16). -/

namespace Sys2Proof.Machine

/-! ### Shared operations -/

/-- Energy up by one (R400); at 0xFFFF as `NRG_OVERFLOW` says (D29, U21). -/
def raisedEnergy (o : Config.NrgOverflow) (energy : Word) : Word :=
  match o with
  | .saturate => if energy < 0xFFFF then energy + 1 else energy
  | .wrap => energy + 1

/-- NRG (R400). -/
def gainEnergy : Exec Unit := do
  let p ← getParams
  modHart fun h => { h with energy := raisedEnergy p.nrgOverflow h.energy }

/-- One store of the carpet bomb (R402): the word at `ES:DI`, then DI two on. -/
def bombStore (v : Word) : Exec Unit := do
  let h ← getHart
  memWrite16 ⟨h.ES, h.DI⟩ v
  modHart fun h => { h with DI := if h.flags.DF then h.DI - 2 else h.DI + 2 }

/-- The stores of the carpet bomb (R402): AX and DX alternating. -/
def bombPairs : (pairs : Nat) → Exec Unit
  | 0 => pure ()
  | k + 1 => do
    let h ← getHart
    bombStore h.AX
    bombStore h.DX
    bombPairs k

/-- INT 0x86 (R402). -/
def carpetBomb : Exec Unit := do
  let h ← getHart
  if h.bomb0 = 0 then pure ()
  else do
    modHart fun h => { h with bomb0 := h.bomb0 - 1 }
    bombPairs 64

/-- The search of the smart bomb (R403) over the last `left` of the 65536 places from `ES:DI` upward: the place
looked at is `i = 65536 - left` bytes above DI. -/
def bombSearch : (left : Nat) → Exec Unit
  | 0 => pure ()
  | k + 1 => do
    let h ← getHart
    let a : Addr := ⟨h.ES, h.DI + BitVec.ofNat 16 (0xFFFF - k)⟩
    let v ← memRead16 a
    if v = h.AX then do
      let w ← memRead16 (addOffset a 2)
      if w = h.DX then do
        memWrite16 a h.BX
        memWrite16 (addOffset a 2) h.CX
      else bombSearch k
    else bombSearch k

/-- INT 0x87 (R403): the counter is spent whether or not the pattern is found. -/
def smartBomb : Exec Unit := do
  let h ← getHart
  if h.bomb1 = 0 then pure ()
  else do
    modHart fun h => { h with bomb1 := h.bomb1 - 1 }
    bombSearch 0x10000

/-- INT 0x88 (R404). -/
def thirdBomb : Exec Unit :=
  modHart fun h => { h with bomb2 := if h.bomb2 = 0 then h.bomb2 else h.bomb2 - 1 }

/-! ### The meanings -/

/-- NRG (R400). -/
def execNrg (s : State) : Answer :=
  perform gainEnergy s

/-- INT 0x86 (R402). -/
def execInt86 (s : State) : Answer :=
  perform carpetBomb s

/-- INT 0x87 (R403). -/
def execInt87 (s : State) : Answer :=
  perform smartBomb s

/-- INT 0x88 (R404). -/
def execInt88 (s : State) : Answer :=
  perform thirdBomb s

end Sys2Proof.Machine
end

