-- ==== Sys2Proof/Machine/Control.lean ====
section
/-! DEFINITION. Control transfer (46_control.md): conditional jumps, LOOP, JCXZ, JMP, CALL, RET, INT, INTO, IRET. IP
holds the offset of the next instruction when a meaning runs (R28, R330). -/

namespace Sys2Proof.Machine

/-! ### Shared operations -/

/-- A relative transfer (R330): wraps in the segment, CS unchanged. -/
def jumpBy (d : Word) : Exec Unit := modHart fun h => { h with IP := h.IP + d }

/-- A conditional jump (R331). -/
def jumpIf (condition : Flags → Bool) (rel : Byte) : Exec Unit := do
  let h ← getHart
  if condition h.flags then jumpBy (sext8 rel) else pure ()

/-- LOOP, LOOPZ, LOOPNZ (R348 to R350): CX goes down in any case, no flag is touched. -/
def loopWhile (condition : Flags → Bool) (rel : Byte) : Exec Unit := do
  modHart fun h => { h with CX := h.CX - 1 }
  let h ← getHart
  if h.CX ≠ 0 ∧ condition h.flags then jumpBy (sext8 rel) else pure ()

/-- JCXZ (R351). -/
def jumpIfCxZero (rel : Byte) : Exec Unit := do
  let h ← getHart
  if h.CX = 0 then jumpBy (sext8 rel) else pure ()

/-- A near absolute transfer (R356). -/
def jumpTo (o : Word) : Exec Unit := modHart fun h => { h with IP := o }

/-- A far transfer (R352, R355). -/
def jumpFar (o s : Word) : Exec Unit := modHart fun h => { h with CS := s, IP := o }

/-- JMP Ew (R356). -/
def jumpIndirect (rm : Operand 16) : Exec Unit := do
  let t ← rm.get
  jumpTo t

/-- JMP M (R357). -/
def jumpFarIndirect (m : MemOp) : Exec Unit := do
  let h ← getHart
  let p ← readFarPointer (h.ea m)
  jumpFar p.1 p.2

/-- CALL rel16 (R358). -/
def callBy (d : Word) : Exec Unit := do
  let h ← getHart
  push16 h.IP
  jumpBy d

/-- CALL Ew (R360): the target is read before the push. -/
def callIndirect (rm : Operand 16) : Exec Unit := do
  let t ← rm.get
  let h ← getHart
  push16 h.IP
  jumpTo t

/-- A far call (R359): CS, then IP pushed. -/
def callFar (o s : Word) : Exec Unit := do
  let h ← getHart
  push16 h.CS
  push16 h.IP
  jumpFar o s

/-- CALL M (R361). -/
def callFarIndirect (m : MemOp) : Exec Unit := do
  let h ← getHart
  let p ← readFarPointer (h.ea m)
  callFar p.1 p.2

/-- RET and RET imm16 (R362, R363). -/
def nearReturn (n : Word) : Exec Unit := do
  let ip ← pop16
  modHart fun h => { h with IP := ip, SP := h.SP + n }

/-- RETF and RETF imm16 (R364, R365). -/
def farReturn (n : Word) : Exec Unit := do
  let ip ← pop16
  modHart fun h => { h with IP := ip }
  let cs ← pop16
  modHart fun h => { h with CS := cs, SP := h.SP + n }

/-- INT imm8 (R371): the three virtual vectors do their own thing, every other dispatches. -/
def interrupt (n : Byte) : Exec Unit :=
  match n.toNat with
  | 0x86 => carpetBomb
  | 0x87 => smartBomb
  | 0x88 => thirdBomb
  | _ => dispatch n

/-- INTO (R374). -/
def interruptOnOverflow : Exec Unit := do
  let h ← getHart
  if h.flags.OF then dispatch 4 else pure ()

/-! ### The meanings -/

/-- JO rel8 (R332). -/
def execJoRel8 (rel : Byte) (s : State) : Answer :=
  perform (jumpIf (fun f => f.OF) rel) s

/-- JNO rel8 (R333). -/
def execJnoRel8 (rel : Byte) (s : State) : Answer :=
  perform (jumpIf (fun f => !f.OF) rel) s

/-- JB rel8 (R334). -/
def execJbRel8 (rel : Byte) (s : State) : Answer :=
  perform (jumpIf (fun f => f.CF) rel) s

/-- JNB rel8 (R335). -/
def execJnbRel8 (rel : Byte) (s : State) : Answer :=
  perform (jumpIf (fun f => !f.CF) rel) s

/-- JZ rel8 (R336). -/
def execJzRel8 (rel : Byte) (s : State) : Answer :=
  perform (jumpIf (fun f => f.ZF) rel) s

/-- JNZ rel8 (R337). -/
def execJnzRel8 (rel : Byte) (s : State) : Answer :=
  perform (jumpIf (fun f => !f.ZF) rel) s

/-- JBE rel8 (R338). -/
def execJbeRel8 (rel : Byte) (s : State) : Answer :=
  perform (jumpIf (fun f => f.CF || f.ZF) rel) s

/-- JA rel8 (R339). -/
def execJaRel8 (rel : Byte) (s : State) : Answer :=
  perform (jumpIf (fun f => !f.CF && !f.ZF) rel) s

/-- JS rel8 (R340). -/
def execJsRel8 (rel : Byte) (s : State) : Answer :=
  perform (jumpIf (fun f => f.SF) rel) s

/-- JNS rel8 (R341). -/
def execJnsRel8 (rel : Byte) (s : State) : Answer :=
  perform (jumpIf (fun f => !f.SF) rel) s

/-- JP rel8 (R342). -/
def execJpRel8 (rel : Byte) (s : State) : Answer :=
  perform (jumpIf (fun f => f.PF) rel) s

/-- JNP rel8 (R343). -/
def execJnpRel8 (rel : Byte) (s : State) : Answer :=
  perform (jumpIf (fun f => !f.PF) rel) s

/-- JL rel8 (R344). -/
def execJlRel8 (rel : Byte) (s : State) : Answer :=
  perform (jumpIf (fun f => f.SF != f.OF) rel) s

/-- JGE rel8 (R345). -/
def execJgeRel8 (rel : Byte) (s : State) : Answer :=
  perform (jumpIf (fun f => f.SF == f.OF) rel) s

/-- JLE rel8 (R346). -/
def execJleRel8 (rel : Byte) (s : State) : Answer :=
  perform (jumpIf (fun f => f.ZF || f.SF != f.OF) rel) s

/-- JG rel8 (R347). -/
def execJgRel8 (rel : Byte) (s : State) : Answer :=
  perform (jumpIf (fun f => !f.ZF && f.SF == f.OF) rel) s

/-- CALL ptr16:16 (R359). -/
def execCallPtr1616 (off : Word) (seg : Word) (s : State) : Answer :=
  perform (callFar off seg) s

/-- RET imm16 (R363). -/
def execRetImm16 (imm : Word) (s : State) : Answer :=
  perform (nearReturn imm) s

/-- RETF imm16 (R365). -/
def execRetfImm16 (imm : Word) (s : State) : Answer :=
  perform (farReturn imm) s

/-- INT imm8 (R371). -/
def execIntImm8 (imm : Byte) (s : State) : Answer :=
  perform (interrupt imm) s

/-- LOOPNZ rel8 (R350). -/
def execLoopnzRel8 (rel : Byte) (s : State) : Answer :=
  perform (loopWhile (fun f => !f.ZF) rel) s

/-- LOOPZ rel8 (R349). -/
def execLoopzRel8 (rel : Byte) (s : State) : Answer :=
  perform (loopWhile (fun f => f.ZF) rel) s

/-- LOOP rel8 (R348). -/
def execLoopRel8 (rel : Byte) (s : State) : Answer :=
  perform (loopWhile (fun _ => true) rel) s

/-- JCXZ rel8 (R351). -/
def execJcxzRel8 (rel : Byte) (s : State) : Answer :=
  perform (jumpIfCxZero rel) s

/-- CALL rel16 (R358). -/
def execCallRel16 (rel : Word) (s : State) : Answer :=
  perform (callBy rel) s

/-- JMP rel16 (R353). -/
def execJmpRel16 (rel : Word) (s : State) : Answer :=
  perform (jumpBy rel) s

/-- JMP ptr16:16 (R355). -/
def execJmpPtr1616 (off : Word) (seg : Word) (s : State) : Answer :=
  perform (jumpFar off seg) s

/-- JMP rel8 (R354). -/
def execJmpRel8 (rel : Byte) (s : State) : Answer :=
  perform (jumpBy (sext8 rel)) s

/-- CALL Ew (R360). -/
def execCallEw (rm : Rm16) (s : State) : Answer :=
  perform (withRm16 rm callIndirect) s

/-- CALL far M (R361). -/
def execCallFarM (m : MemOp) (s : State) : Answer :=
  perform (callFarIndirect m) s

/-- JMP Ew (R356). -/
def execJmpEw (rm : Rm16) (s : State) : Answer :=
  perform (withRm16 rm jumpIndirect) s

/-- JMP far M (R357). -/
def execJmpFarM (m : MemOp) (s : State) : Answer :=
  perform (jumpFarIndirect m) s

/-- RET (R362). -/
def execRet (s : State) : Answer :=
  perform (nearReturn 0) s

/-- RETF (R364). -/
def execRetf (s : State) : Answer :=
  perform (farReturn 0) s

/-- INT3 (R373). -/
def execInt3 (s : State) : Answer :=
  perform (dispatch 3) s

/-- INTO (R374). -/
def execInto (s : State) : Answer :=
  perform interruptOnOverflow s

/-- IRET (R372). -/
def execIret (s : State) : Answer :=
  perform interruptReturn s

end Sys2Proof.Machine
end

