-- ==== Sys2Proof/Machine/FlagOps.lean ====
section
/-! DEFINITION. The flag instructions (47_flag_ops.md): each writes the bits its rule names and no other. -/

namespace Sys2Proof.Machine

/-! ### Shared operations -/

/-- LAHF (R388). -/
def loadAhFromFlags : Exec Unit := modHart fun h => h.set8 .AH (lowByte h.flags.toWord)

/-- SAHF (R389). -/
def storeAhIntoFlags : Exec Unit := do
  let h ← getHart
  modFlags fun f => f.setFromAH (h.get8 .AH)

/-- PUSHF (R390): all sixteen bits. -/
def pushFlags : Exec Unit := do
  let h ← getHart
  push16 h.flags.toWord

/-- POPF (R391): all sixteen bits. -/
def popFlags : Exec Unit := do
  let v ← pop16
  modFlags fun _ => Flags.ofWord v

/-! ### The meanings -/

/-- PUSHF (R390). -/
def execPushf (s : State) : Answer :=
  perform pushFlags s

/-- POPF (R391). -/
def execPopf (s : State) : Answer :=
  perform popFlags s

/-- SAHF (R389). -/
def execSahf (s : State) : Answer :=
  perform storeAhIntoFlags s

/-- LAHF (R388). -/
def execLahf (s : State) : Answer :=
  perform loadAhFromFlags s

/-- CMC (R383). -/
def execCmc (s : State) : Answer :=
  perform (modFlags fun f => { f with CF := !f.CF }) s

/-- CLC (R381). -/
def execClc (s : State) : Answer :=
  perform (modFlags fun f => { f with CF := false }) s

/-- STC (R382). -/
def execStc (s : State) : Answer :=
  perform (modFlags fun f => { f with CF := true }) s

/-- CLI (R386). -/
def execCli (s : State) : Answer :=
  perform (modFlags fun f => { f with IF := false }) s

/-- STI (R387). -/
def execSti (s : State) : Answer :=
  perform (modFlags fun f => { f with IF := true }) s

/-- CLD (R384). -/
def execCld (s : State) : Answer :=
  perform (modFlags fun f => { f with DF := false }) s

/-- STD (R385). -/
def execStd (s : State) : Answer :=
  perform (modFlags fun f => { f with DF := true }) s

end Sys2Proof.Machine
end

