-- ==== Sys2Proof/Machine/Move.lean ====
section
/-! DEFINITION. Data movement (41_mov_data.md): MOV, XCHG, NOP, LEA, XLAT, CBW, CWD, LES, LDS. No flag is touched. -/

namespace Sys2Proof.Machine

/-! ### Shared operations -/

/-- Copies an operand (R201 to R205). -/
def move {n : Nat} (dst src : Operand n) : Exec Unit := do
  let v ← src.get
  dst.set v

/-- Exchanges the register operand `reg` with `rm` (R209): the register is written last. -/
def exchange {n : Nat} (reg rm : Operand n) : Exec Unit := do
  let t ← rm.get
  let v ← reg.get
  rm.set v
  reg.set t

/-- `DS:moffs16` (R205). -/
def atMoffs16 (moffs : Word) (k : Addr → Exec Unit) : Exec Unit := do
  let h ← getHart
  k ⟨h.DS, moffs⟩

/-- `rm <- sreg[RRR]` (R206). -/
def storeSreg (rm : Operand 16) (sr : BitVec 3) : Exec Unit := do
  let h ← getHart
  rm.set (h.getSreg (sregOfIndex sr))

/-- `sreg[RRR] <- rm` (R207). -/
def loadSreg (sr : BitVec 3) (rm : Operand 16) : Exec Unit := do
  let v ← rm.get
  modHart fun h => h.setSreg (sregOfIndex sr) v

/-- LES and LDS (R213, R214): both words are read before either register is written. -/
def loadFarPointer (r : Reg16) (sr : Sreg) (m : MemOp) : Exec Unit := do
  let h ← getHart
  let p ← readFarPointer (h.ea m)
  modHart fun h => (h.set16 r p.1).setSreg sr p.2

/-- XLAT (R211): AL is added unsigned, the offset wraps. -/
def translate : Exec Unit := do
  let h ← getHart
  let v ← memRead8 ⟨h.DS, h.BX + zext8 (h.get8 .AL)⟩
  modHart fun h => h.set8 .AL v

/-! ### The meanings -/

/-- XCHG Gb, Eb (R209). -/
def execXchgGbEb (r : Reg8) (rm : Rm8) (s : State) : Answer :=
  perform (withRm8 rm fun e => exchange (byteReg r) e) s

/-- XCHG Gw, Ew (R209). -/
def execXchgGwEw (r : Reg16) (rm : Rm16) (s : State) : Answer :=
  perform (withRm16 rm fun e => exchange (wordReg r) e) s

/-- MOV Eb, Gb (R201). -/
def execMovEbGb (rm : Rm8) (r : Reg8) (s : State) : Answer :=
  perform (withRm8 rm fun d => move d (byteReg r)) s

/-- MOV Ew, Gw (R201). -/
def execMovEwGw (rm : Rm16) (r : Reg16) (s : State) : Answer :=
  perform (withRm16 rm fun d => move d (wordReg r)) s

/-- MOV Gb, Eb (R202). -/
def execMovGbEb (r : Reg8) (rm : Rm8) (s : State) : Answer :=
  perform (withRm8 rm fun e => move (byteReg r) e) s

/-- MOV Gw, Ew (R202). -/
def execMovGwEw (r : Reg16) (rm : Rm16) (s : State) : Answer :=
  perform (withRm16 rm fun e => move (wordReg r) e) s

/-- MOV Ew, Sw (R206). -/
def execMovEwSw (rm : Rm16) (sr : BitVec 3) (s : State) : Answer :=
  perform (withRm16 rm fun d => storeSreg d sr) s

/-- LEA Gw, M (R210). -/
def execLeaGwM (r : Reg16) (m : MemOp) (s : State) : Answer :=
  perform (modHart fun h => h.set16 r (h.ea m).off) s

/-- MOV Sw, Ew (R207). -/
def execMovSwEw (sr : BitVec 3) (rm : Rm16) (s : State) : Answer :=
  perform (withRm16 rm fun e => loadSreg sr e) s

/-- XCHG AX, reg16 (R208). -/
def execXchgAxReg16 (r : Reg16) (s : State) : Answer :=
  perform (exchange (wordReg r) (wordReg .AX)) s

/-- MOV AL, [moffs16] (R205). -/
def execMovAlMoffs16 (moffs : Word) (s : State) : Answer :=
  perform (atMoffs16 moffs fun a => move (byteReg .AL) (byteAt a)) s

/-- MOV AX, [moffs16] (R205). -/
def execMovAxMoffs16 (moffs : Word) (s : State) : Answer :=
  perform (atMoffs16 moffs fun a => move (wordReg .AX) (wordAt a)) s

/-- MOV [moffs16], AL (R205). -/
def execMovMoffs16Al (moffs : Word) (s : State) : Answer :=
  perform (atMoffs16 moffs fun a => move (byteAt a) (byteReg .AL)) s

/-- MOV [moffs16], AX (R205). -/
def execMovMoffs16Ax (moffs : Word) (s : State) : Answer :=
  perform (atMoffs16 moffs fun a => move (wordAt a) (wordReg .AX)) s

/-- MOV reg8, imm8 (R203). -/
def execMovReg8Imm8 (r : Reg8) (imm : Byte) (s : State) : Answer :=
  perform (move (byteReg r) (immediate imm)) s

/-- MOV reg16, imm16 (R203). -/
def execMovReg16Imm16 (r : Reg16) (imm : Word) (s : State) : Answer :=
  perform (move (wordReg r) (immediate imm)) s

/-- LES Gw, M (R213). -/
def execLesGwM (r : Reg16) (m : MemOp) (s : State) : Answer :=
  perform (loadFarPointer r .ES m) s

/-- LDS Gw, M (R214). -/
def execLdsGwM (r : Reg16) (m : MemOp) (s : State) : Answer :=
  perform (loadFarPointer r .DS m) s

/-- MOV Eb, imm8 (R204). -/
def execMovEbImm8 (rm : Rm8) (imm : Byte) (s : State) : Answer :=
  perform (withRm8 rm fun d => move d (immediate imm)) s

/-- MOV Ew, imm16 (R204). -/
def execMovEwImm16 (rm : Rm16) (imm : Word) (s : State) : Answer :=
  perform (withRm16 rm fun d => move d (immediate imm)) s

/-- NOP (R208). -/
def execNop (s : State) : Answer :=
  perform (pure ()) s

/-- CBW (R212). -/
def execCbw (s : State) : Answer :=
  perform (modHart fun h => { h with AX := sext8 (h.get8 .AL) }) s

/-- CWD (R215). -/
def execCwd (s : State) : Answer :=
  perform (modHart fun h => { h with DX := if h.AX.msb then 0xFFFF else 0 }) s

/-- XLAT (R211). -/
def execXlat (s : State) : Answer :=
  perform translate s

end Sys2Proof.Machine
end

