-- ==== Sys2Proof/Machine/MulDiv.lean ====
section
/-! DEFINITION. The unary group and multiplication and division (45_unary_muldiv.md): NOT, NEG, MUL, IMUL, DIV, IDIV,
three-operand IMUL. -/

namespace Sys2Proof.Machine

/-! ### Shared operations -/

/-- NOT (R312). -/
def complement {n : Nat} (rm : Operand n) : Exec Unit := do
  let a ← rm.get
  rm.set (~~~a)

/-- NEG (R313). -/
def negate {n : Nat} (rm : Operand n) : Exec Unit := do
  let a ← rm.get
  modFlags fun f => f.setArith (subN 0 a false)
  rm.set (subN 0 a false).result

/-- The flags of the multiplies, with their `UNDEF` word (R314, R315, R318). -/
def mulFlags (wide : Bool) : Exec Unit := do
  let u ← freeFlags
  modFlags fun f => f.setMul wide u

/-- The flags of the divides: all from an `UNDEF` word (R316, R317). -/
def divFlags : Exec Unit := do
  let u ← freeFlags
  modFlags fun f => f.setUndefined u

/-- DX:AX as the double-width operand (R316). -/
def Hart.dxAx (h : Hart) : BitVec 32 := h.DX ++ h.AX

/-- Assigns DX:AX (R314). -/
def Hart.setDxAx (h : Hart) (p : BitVec 32) : Hart :=
  { h with DX := p.extractLsb' 16 16, AX := p.extractLsb' 0 16 }

/-- MUL, byte form (R314). -/
def mulByte (rm : Operand 8) : Exec Unit := do
  let b ← rm.get
  let h ← getHart
  let p := (h.get8 .AL).toNat * b.toNat
  modHart fun h => { h with AX := BitVec.ofNat 16 p }
  mulFlags (decide (0xFF < p))

/-- MUL, word form (R314). -/
def mulWord (rm : Operand 16) : Exec Unit := do
  let b ← rm.get
  let h ← getHart
  let p := h.AX.toNat * b.toNat
  modHart fun h => h.setDxAx (BitVec.ofNat 32 p)
  mulFlags (decide (0xFFFF < p))

/-- IMUL, one operand, byte form (R315). -/
def imulByte (rm : Operand 8) : Exec Unit := do
  let b ← rm.get
  let h ← getHart
  let p := (h.get8 .AL).toInt * b.toInt
  modHart fun h => { h with AX := BitVec.ofInt 16 p }
  mulFlags (decide (p < -128 ∨ 127 < p))

/-- IMUL, one operand, word form (R315). -/
def imulWord (rm : Operand 16) : Exec Unit := do
  let b ← rm.get
  let h ← getHart
  let p := h.AX.toInt * b.toInt
  modHart fun h => h.setDxAx (BitVec.ofInt 32 p)
  mulFlags (decide (p < -32768 ∨ 32767 < p))

/-- IMUL, three operands (R318): `rm` is not written. -/
def imulThree (r : Reg16) (rm : Operand 16) (imm : Word) : Exec Unit := do
  let a ← rm.get
  let p := a.toInt * imm.toInt
  modHart fun h => h.set16 r (BitVec.ofInt 16 p)
  mulFlags (decide (p < -32768 ∨ 32767 < p))

/-- DIV, byte form (R316): the operand is read first; a fault writes no register. -/
def divByte (rm : Operand 8) : Exec Unit := do
  let d ← rm.get
  let h ← getHart
  let q := h.AX.toNat / d.toNat
  let r := h.AX.toNat % d.toNat
  if d.toNat = 0 then raise .divisionFault
  else if 0xFF < q then raise .divisionFault
  else do
    modHart fun h => { h with AX := joinBytes (BitVec.ofNat 8 r) (BitVec.ofNat 8 q) }
    divFlags

/-- DIV, word form (R316). -/
def divWord (rm : Operand 16) : Exec Unit := do
  let d ← rm.get
  let h ← getHart
  let q := h.dxAx.toNat / d.toNat
  let r := h.dxAx.toNat % d.toNat
  if d.toNat = 0 then raise .divisionFault
  else if 0xFFFF < q then raise .divisionFault
  else do
    modHart fun h => { h with AX := BitVec.ofNat 16 q, DX := BitVec.ofNat 16 r }
    divFlags

/-- IDIV, byte form (R317): the quotient is rounded toward zero. -/
def idivByte (rm : Operand 8) : Exec Unit := do
  let d ← rm.get
  let h ← getHart
  let q := h.AX.toInt.tdiv d.toInt
  let r := h.AX.toInt - q * d.toInt
  if d.toInt = 0 then raise .divisionFault
  else if q < -128 ∨ 127 < q then raise .divisionFault
  else do
    modHart fun h => { h with AX := joinBytes (BitVec.ofInt 8 r) (BitVec.ofInt 8 q) }
    divFlags

/-- IDIV, word form (R317). -/
def idivWord (rm : Operand 16) : Exec Unit := do
  let d ← rm.get
  let h ← getHart
  let q := h.dxAx.toInt.tdiv d.toInt
  let r := h.dxAx.toInt - q * d.toInt
  if d.toInt = 0 then raise .divisionFault
  else if q < -32768 ∨ 32767 < q then raise .divisionFault
  else do
    modHart fun h => { h with AX := BitVec.ofInt 16 q, DX := BitVec.ofInt 16 r }
    divFlags

/-! ### The meanings -/

/-- IMUL Gw, Ew, imm16 (R318). -/
def execImulGwEwImm16 (r : Reg16) (rm : Rm16) (imm : Word) (s : State) : Answer :=
  perform (withRm16 rm fun e => imulThree r e imm) s

/-- IMUL Gw, Ew, simm8 (R318). -/
def execImulGwEwSimm8 (r : Reg16) (rm : Rm16) (imm : Byte) (s : State) : Answer :=
  perform (withRm16 rm fun e => imulThree r e (sext8 imm)) s

/-- NOT Eb (R312). -/
def execNotEb (rm : Rm8) (s : State) : Answer :=
  perform (withRm8 rm complement) s

/-- NEG Eb (R313). -/
def execNegEb (rm : Rm8) (s : State) : Answer :=
  perform (withRm8 rm negate) s

/-- MUL Eb (R314). -/
def execMulEb (rm : Rm8) (s : State) : Answer :=
  perform (withRm8 rm mulByte) s

/-- IMUL Eb (R315). -/
def execImulEb (rm : Rm8) (s : State) : Answer :=
  perform (withRm8 rm imulByte) s

/-- DIV Eb (R316). -/
def execDivEb (rm : Rm8) (s : State) : Answer :=
  perform (withRm8 rm divByte) s

/-- IDIV Eb (R317). -/
def execIdivEb (rm : Rm8) (s : State) : Answer :=
  perform (withRm8 rm idivByte) s

/-- NOT Ew (R312). -/
def execNotEw (rm : Rm16) (s : State) : Answer :=
  perform (withRm16 rm complement) s

/-- NEG Ew (R313). -/
def execNegEw (rm : Rm16) (s : State) : Answer :=
  perform (withRm16 rm negate) s

/-- MUL Ew (R314). -/
def execMulEw (rm : Rm16) (s : State) : Answer :=
  perform (withRm16 rm mulWord) s

/-- IMUL Ew (R315). -/
def execImulEw (rm : Rm16) (s : State) : Answer :=
  perform (withRm16 rm imulWord) s

/-- DIV Ew (R316). -/
def execDivEw (rm : Rm16) (s : State) : Answer :=
  perform (withRm16 rm divWord) s

/-- IDIV Ew (R317). -/
def execIdivEw (rm : Rm16) (s : State) : Answer :=
  perform (withRm16 rm idivWord) s

end Sys2Proof.Machine
end

