-- ==== Sys2Proof/Machine/Reject.lean ====
section
/-! DEFINITION. The encodings that raise a fault (48_game_and_unsupported.md sections 3 and 4): the effect the spec
gives each is its fault, of which the hart dies (R432 to R434). -/

namespace Sys2Proof.Machine

/-! ### The meanings -/

/-- (LEA with a register operand) (R418). -/
def execLeaRegister (_rrr : BitVec 3) (_iii : BitVec 3) (s : State) : Answer :=
  perform (raise .invalidOpcode) s

/-- (8F /1) (R418). -/
def execInvalid8Fs1 (_mm : BitVec 2) (_iii : BitVec 3) (s : State) : Answer :=
  perform (raise .invalidOpcode) s

/-- (8F /2) (R418). -/
def execInvalid8Fs2 (_mm : BitVec 2) (_iii : BitVec 3) (s : State) : Answer :=
  perform (raise .invalidOpcode) s

/-- (8F /3) (R418). -/
def execInvalid8Fs3 (_mm : BitVec 2) (_iii : BitVec 3) (s : State) : Answer :=
  perform (raise .invalidOpcode) s

/-- (8F /4) (R418). -/
def execInvalid8Fs4 (_mm : BitVec 2) (_iii : BitVec 3) (s : State) : Answer :=
  perform (raise .invalidOpcode) s

/-- (8F /5) (R418). -/
def execInvalid8Fs5 (_mm : BitVec 2) (_iii : BitVec 3) (s : State) : Answer :=
  perform (raise .invalidOpcode) s

/-- (8F /6) (R418). -/
def execInvalid8Fs6 (_mm : BitVec 2) (_iii : BitVec 3) (s : State) : Answer :=
  perform (raise .invalidOpcode) s

/-- (8F /7) (R418). -/
def execInvalid8Fs7 (_mm : BitVec 2) (_iii : BitVec 3) (s : State) : Answer :=
  perform (raise .invalidOpcode) s

/-- (9B not followed by 9B 9B 9B) (R400). -/
def execNrgBroken (_good : Fin 3) (_b : Byte) (s : State) : Answer :=
  perform (raise .invalidOpcode) s

/-- (C0 /6) (R279). -/
def execInvalidC0s6 (_mm : BitVec 2) (_iii : BitVec 3) (s : State) : Answer :=
  perform (raise .invalidOpcode) s

/-- (C1 /6) (R279). -/
def execInvalidC1s6 (_mm : BitVec 2) (_iii : BitVec 3) (s : State) : Answer :=
  perform (raise .invalidOpcode) s

/-- (D0 /6) (R279). -/
def execInvalidD0s6 (_mm : BitVec 2) (_iii : BitVec 3) (s : State) : Answer :=
  perform (raise .invalidOpcode) s

/-- (D1 /6) (R279). -/
def execInvalidD1s6 (_mm : BitVec 2) (_iii : BitVec 3) (s : State) : Answer :=
  perform (raise .invalidOpcode) s

/-- (D2 /6) (R279). -/
def execInvalidD2s6 (_mm : BitVec 2) (_iii : BitVec 3) (s : State) : Answer :=
  perform (raise .invalidOpcode) s

/-- (D3 /6) (R279). -/
def execInvalidD3s6 (_mm : BitVec 2) (_iii : BitVec 3) (s : State) : Answer :=
  perform (raise .invalidOpcode) s

/-- (LES with a register operand) (R418). -/
def execLesRegister (_rrr : BitVec 3) (_iii : BitVec 3) (s : State) : Answer :=
  perform (raise .invalidOpcode) s

/-- (LDS with a register operand) (R418). -/
def execLdsRegister (_rrr : BitVec 3) (_iii : BitVec 3) (s : State) : Answer :=
  perform (raise .invalidOpcode) s

/-- (C6 /1) (R418). -/
def execInvalidC6s1 (_mm : BitVec 2) (_iii : BitVec 3) (s : State) : Answer :=
  perform (raise .invalidOpcode) s

/-- (C6 /2) (R418). -/
def execInvalidC6s2 (_mm : BitVec 2) (_iii : BitVec 3) (s : State) : Answer :=
  perform (raise .invalidOpcode) s

/-- (C6 /3) (R418). -/
def execInvalidC6s3 (_mm : BitVec 2) (_iii : BitVec 3) (s : State) : Answer :=
  perform (raise .invalidOpcode) s

/-- (C6 /4) (R418). -/
def execInvalidC6s4 (_mm : BitVec 2) (_iii : BitVec 3) (s : State) : Answer :=
  perform (raise .invalidOpcode) s

/-- (C6 /5) (R418). -/
def execInvalidC6s5 (_mm : BitVec 2) (_iii : BitVec 3) (s : State) : Answer :=
  perform (raise .invalidOpcode) s

/-- (C6 /6) (R418). -/
def execInvalidC6s6 (_mm : BitVec 2) (_iii : BitVec 3) (s : State) : Answer :=
  perform (raise .invalidOpcode) s

/-- (C6 /7) (R418). -/
def execInvalidC6s7 (_mm : BitVec 2) (_iii : BitVec 3) (s : State) : Answer :=
  perform (raise .invalidOpcode) s

/-- (C7 /1) (R418). -/
def execInvalidC7s1 (_mm : BitVec 2) (_iii : BitVec 3) (s : State) : Answer :=
  perform (raise .invalidOpcode) s

/-- (C7 /2) (R418). -/
def execInvalidC7s2 (_mm : BitVec 2) (_iii : BitVec 3) (s : State) : Answer :=
  perform (raise .invalidOpcode) s

/-- (C7 /3) (R418). -/
def execInvalidC7s3 (_mm : BitVec 2) (_iii : BitVec 3) (s : State) : Answer :=
  perform (raise .invalidOpcode) s

/-- (C7 /4) (R418). -/
def execInvalidC7s4 (_mm : BitVec 2) (_iii : BitVec 3) (s : State) : Answer :=
  perform (raise .invalidOpcode) s

/-- (C7 /5) (R418). -/
def execInvalidC7s5 (_mm : BitVec 2) (_iii : BitVec 3) (s : State) : Answer :=
  perform (raise .invalidOpcode) s

/-- (C7 /6) (R418). -/
def execInvalidC7s6 (_mm : BitVec 2) (_iii : BitVec 3) (s : State) : Answer :=
  perform (raise .invalidOpcode) s

/-- (C7 /7) (R418). -/
def execInvalidC7s7 (_mm : BitVec 2) (_iii : BitVec 3) (s : State) : Answer :=
  perform (raise .invalidOpcode) s

/-- ESC 0 to 7 (FPU) (R412). -/
def execEsc (_n : BitVec 3) (s : State) : Answer :=
  perform (raise .unimplementedOpcode) s

/-- (REPNZ prefix not followed by a string opcode) (R297). -/
def execRepnzBroken (_b : Byte) (s : State) : Answer :=
  perform (raise .invalidOpcode) s

/-- (REP prefix not followed by a string opcode) (R297). -/
def execRepBroken (_b : Byte) (s : State) : Answer :=
  perform (raise .invalidOpcode) s

/-- (F6 /1) (R319). -/
def execInvalidF6s1 (_mm : BitVec 2) (_iii : BitVec 3) (s : State) : Answer :=
  perform (raise .invalidOpcode) s

/-- (F7 /1) (R319). -/
def execInvalidF7s1 (_mm : BitVec 2) (_iii : BitVec 3) (s : State) : Answer :=
  perform (raise .invalidOpcode) s

/-- (FE /2) (R418). -/
def execInvalidFEs2 (_mm : BitVec 2) (_iii : BitVec 3) (s : State) : Answer :=
  perform (raise .invalidOpcode) s

/-- (FE /3) (R418). -/
def execInvalidFEs3 (_mm : BitVec 2) (_iii : BitVec 3) (s : State) : Answer :=
  perform (raise .invalidOpcode) s

/-- (FE /4) (R418). -/
def execInvalidFEs4 (_mm : BitVec 2) (_iii : BitVec 3) (s : State) : Answer :=
  perform (raise .invalidOpcode) s

/-- (FE /5) (R418). -/
def execInvalidFEs5 (_mm : BitVec 2) (_iii : BitVec 3) (s : State) : Answer :=
  perform (raise .invalidOpcode) s

/-- (FE /6) (R418). -/
def execInvalidFEs6 (_mm : BitVec 2) (_iii : BitVec 3) (s : State) : Answer :=
  perform (raise .invalidOpcode) s

/-- (FE /7) (R418). -/
def execInvalidFEs7 (_mm : BitVec 2) (_iii : BitVec 3) (s : State) : Answer :=
  perform (raise .invalidOpcode) s

/-- (FF /7) (R418). -/
def execInvalidFFs7 (_mm : BitVec 2) (_iii : BitVec 3) (s : State) : Answer :=
  perform (raise .invalidOpcode) s

/-- (CALL far with a register operand) (R418). -/
def execCallFarRegister (_iii : BitVec 3) (s : State) : Answer :=
  perform (raise .invalidOpcode) s

/-- (JMP far with a register operand) (R418). -/
def execJmpFarRegister (_iii : BitVec 3) (s : State) : Answer :=
  perform (raise .invalidOpcode) s

/-- (0F: not an instruction) (R417). -/
def execInvalid0F (s : State) : Answer :=
  perform (raise .invalidOpcode) s

/-- ES: override (R410). -/
def execEsOverride (s : State) : Answer :=
  perform (raise .unimplementedOpcode) s

/-- CS: override (R410). -/
def execCsOverride (s : State) : Answer :=
  perform (raise .unimplementedOpcode) s

/-- SS: override (R410). -/
def execSsOverride (s : State) : Answer :=
  perform (raise .unimplementedOpcode) s

/-- DS: override (R410). -/
def execDsOverride (s : State) : Answer :=
  perform (raise .unimplementedOpcode) s

/-- DAA (R411). -/
def execDaa (s : State) : Answer :=
  perform (raise .unimplementedOpcode) s

/-- DAS (R411). -/
def execDas (s : State) : Answer :=
  perform (raise .unimplementedOpcode) s

/-- AAA (R411). -/
def execAaa (s : State) : Answer :=
  perform (raise .unimplementedOpcode) s

/-- AAS (R411). -/
def execAas (s : State) : Answer :=
  perform (raise .unimplementedOpcode) s

/-- AAM (R411). -/
def execAam (s : State) : Answer :=
  perform (raise .unimplementedOpcode) s

/-- AAD (R411). -/
def execAad (s : State) : Answer :=
  perform (raise .unimplementedOpcode) s

/-- BOUND (R416). -/
def execBound (s : State) : Answer :=
  perform (raise .unimplementedOpcode) s

/-- (63: not an instruction) (R417). -/
def execInvalid63 (s : State) : Answer :=
  perform (raise .invalidOpcode) s

/-- (64: not an instruction) (R417). -/
def execInvalid64 (s : State) : Answer :=
  perform (raise .invalidOpcode) s

/-- (65: not an instruction) (R417). -/
def execInvalid65 (s : State) : Answer :=
  perform (raise .invalidOpcode) s

/-- (66: not an instruction) (R417). -/
def execInvalid66 (s : State) : Answer :=
  perform (raise .invalidOpcode) s

/-- (67: not an instruction) (R417). -/
def execInvalid67 (s : State) : Answer :=
  perform (raise .invalidOpcode) s

/-- INSB (R413). -/
def execInsb (s : State) : Answer :=
  perform (raise .unimplementedOpcode) s

/-- INSW (R413). -/
def execInsw (s : State) : Answer :=
  perform (raise .unimplementedOpcode) s

/-- OUTSB (R413). -/
def execOutsb (s : State) : Answer :=
  perform (raise .unimplementedOpcode) s

/-- OUTSW (R413). -/
def execOutsw (s : State) : Answer :=
  perform (raise .unimplementedOpcode) s

/-- (82: not an instruction here) (R417). -/
def execInvalid82 (s : State) : Answer :=
  perform (raise .invalidOpcode) s

/-- (D6: not an instruction) (R417). -/
def execInvalidD6 (s : State) : Answer :=
  perform (raise .invalidOpcode) s

/-- IN AL, imm8 (R413). -/
def execInAlImm8 (s : State) : Answer :=
  perform (raise .unimplementedOpcode) s

/-- IN AX, imm8 (R413). -/
def execInAxImm8 (s : State) : Answer :=
  perform (raise .unimplementedOpcode) s

/-- OUT imm8, AL (R413). -/
def execOutImm8Al (s : State) : Answer :=
  perform (raise .unimplementedOpcode) s

/-- OUT imm8, AX (R413). -/
def execOutImm8Ax (s : State) : Answer :=
  perform (raise .unimplementedOpcode) s

/-- IN AL, DX (R413). -/
def execInAlDx (s : State) : Answer :=
  perform (raise .unimplementedOpcode) s

/-- IN AX, DX (R413). -/
def execInAxDx (s : State) : Answer :=
  perform (raise .unimplementedOpcode) s

/-- OUT DX, AL (R413). -/
def execOutDxAl (s : State) : Answer :=
  perform (raise .unimplementedOpcode) s

/-- OUT DX, AX (R413). -/
def execOutDxAx (s : State) : Answer :=
  perform (raise .unimplementedOpcode) s

/-- LOCK (R414). -/
def execLock (s : State) : Answer :=
  perform (raise .unimplementedOpcode) s

/-- (F1: not an instruction) (R417). -/
def execInvalidF1 (s : State) : Answer :=
  perform (raise .invalidOpcode) s

/-- HLT (R415). -/
def execHlt (s : State) : Answer :=
  perform (raise .unimplementedOpcode) s

end Sys2Proof.Machine
end

