-- ==== Sys2Proof/Machine/Shift.lean ====
section
/-! DEFINITION. The shift and rotate group (43_shift_rotate.md): seven operations, counts 1, CL and imm8. -/

namespace Sys2Proof.Machine

/-! ### The family, once -/

/-- The masked count (R271). -/
def maskedCount (p : Config.Params) (raw : Byte) : Nat := (raw &&& p.shiftCountMask).toNat

/-- The common operation of the group (R271): the operand is read in any case; for a masked count of 0 nothing is
written; OF and AF are taken from an `UNDEF` word where the operation leaves them open. -/
def shift {n : Nat} (op : ShiftOp) (raw : Byte) (rm : Operand n) : Exec Unit := do
  let p ← getParams
  let v ← rm.get
  if maskedCount p raw = 0 then pure ()
  else
    let h ← getHart
    let r := shiftRepeat op (maskedCount p raw) v h.flags.CF
    rm.set r.1
    let u ← if shiftLeavesUndefined op (maskedCount p raw) then freeFlags else pure 0
    modFlags fun f => f.setShift op (maskedCount p raw) v r.1 r.2 u

/-- The forms whose count is CL (R270). -/
def shiftCl {n : Nat} (op : ShiftOp) (rm : Operand n) : Exec Unit := do
  let h ← getHart
  shift op (h.get8 .CL) rm

/-! ### The meanings -/

/-- ROL Eb, imm8 (R272). -/
def execRolEbImm8 (rm : Rm8) (imm : Byte) (s : State) : Answer :=
  perform (withRm8 rm (shift .rol imm)) s

/-- ROR Eb, imm8 (R273). -/
def execRorEbImm8 (rm : Rm8) (imm : Byte) (s : State) : Answer :=
  perform (withRm8 rm (shift .ror imm)) s

/-- RCL Eb, imm8 (R274). -/
def execRclEbImm8 (rm : Rm8) (imm : Byte) (s : State) : Answer :=
  perform (withRm8 rm (shift .rcl imm)) s

/-- RCR Eb, imm8 (R275). -/
def execRcrEbImm8 (rm : Rm8) (imm : Byte) (s : State) : Answer :=
  perform (withRm8 rm (shift .rcr imm)) s

/-- SHL Eb, imm8 (R276). -/
def execShlEbImm8 (rm : Rm8) (imm : Byte) (s : State) : Answer :=
  perform (withRm8 rm (shift .shl imm)) s

/-- SHR Eb, imm8 (R277). -/
def execShrEbImm8 (rm : Rm8) (imm : Byte) (s : State) : Answer :=
  perform (withRm8 rm (shift .shr imm)) s

/-- SAR Eb, imm8 (R278). -/
def execSarEbImm8 (rm : Rm8) (imm : Byte) (s : State) : Answer :=
  perform (withRm8 rm (shift .sar imm)) s

/-- ROL Ew, imm8 (R272). -/
def execRolEwImm8 (rm : Rm16) (imm : Byte) (s : State) : Answer :=
  perform (withRm16 rm (shift .rol imm)) s

/-- ROR Ew, imm8 (R273). -/
def execRorEwImm8 (rm : Rm16) (imm : Byte) (s : State) : Answer :=
  perform (withRm16 rm (shift .ror imm)) s

/-- RCL Ew, imm8 (R274). -/
def execRclEwImm8 (rm : Rm16) (imm : Byte) (s : State) : Answer :=
  perform (withRm16 rm (shift .rcl imm)) s

/-- RCR Ew, imm8 (R275). -/
def execRcrEwImm8 (rm : Rm16) (imm : Byte) (s : State) : Answer :=
  perform (withRm16 rm (shift .rcr imm)) s

/-- SHL Ew, imm8 (R276). -/
def execShlEwImm8 (rm : Rm16) (imm : Byte) (s : State) : Answer :=
  perform (withRm16 rm (shift .shl imm)) s

/-- SHR Ew, imm8 (R277). -/
def execShrEwImm8 (rm : Rm16) (imm : Byte) (s : State) : Answer :=
  perform (withRm16 rm (shift .shr imm)) s

/-- SAR Ew, imm8 (R278). -/
def execSarEwImm8 (rm : Rm16) (imm : Byte) (s : State) : Answer :=
  perform (withRm16 rm (shift .sar imm)) s

/-- ROL Eb, 1 (R272). -/
def execRolEb1 (rm : Rm8) (s : State) : Answer :=
  perform (withRm8 rm (shift .rol 1)) s

/-- ROR Eb, 1 (R273). -/
def execRorEb1 (rm : Rm8) (s : State) : Answer :=
  perform (withRm8 rm (shift .ror 1)) s

/-- RCL Eb, 1 (R274). -/
def execRclEb1 (rm : Rm8) (s : State) : Answer :=
  perform (withRm8 rm (shift .rcl 1)) s

/-- RCR Eb, 1 (R275). -/
def execRcrEb1 (rm : Rm8) (s : State) : Answer :=
  perform (withRm8 rm (shift .rcr 1)) s

/-- SHL Eb, 1 (R276). -/
def execShlEb1 (rm : Rm8) (s : State) : Answer :=
  perform (withRm8 rm (shift .shl 1)) s

/-- SHR Eb, 1 (R277). -/
def execShrEb1 (rm : Rm8) (s : State) : Answer :=
  perform (withRm8 rm (shift .shr 1)) s

/-- SAR Eb, 1 (R278). -/
def execSarEb1 (rm : Rm8) (s : State) : Answer :=
  perform (withRm8 rm (shift .sar 1)) s

/-- ROL Ew, 1 (R272). -/
def execRolEw1 (rm : Rm16) (s : State) : Answer :=
  perform (withRm16 rm (shift .rol 1)) s

/-- ROR Ew, 1 (R273). -/
def execRorEw1 (rm : Rm16) (s : State) : Answer :=
  perform (withRm16 rm (shift .ror 1)) s

/-- RCL Ew, 1 (R274). -/
def execRclEw1 (rm : Rm16) (s : State) : Answer :=
  perform (withRm16 rm (shift .rcl 1)) s

/-- RCR Ew, 1 (R275). -/
def execRcrEw1 (rm : Rm16) (s : State) : Answer :=
  perform (withRm16 rm (shift .rcr 1)) s

/-- SHL Ew, 1 (R276). -/
def execShlEw1 (rm : Rm16) (s : State) : Answer :=
  perform (withRm16 rm (shift .shl 1)) s

/-- SHR Ew, 1 (R277). -/
def execShrEw1 (rm : Rm16) (s : State) : Answer :=
  perform (withRm16 rm (shift .shr 1)) s

/-- SAR Ew, 1 (R278). -/
def execSarEw1 (rm : Rm16) (s : State) : Answer :=
  perform (withRm16 rm (shift .sar 1)) s

/-- ROL Eb, CL (R272). -/
def execRolEbCl (rm : Rm8) (s : State) : Answer :=
  perform (withRm8 rm (shiftCl .rol)) s

/-- ROR Eb, CL (R273). -/
def execRorEbCl (rm : Rm8) (s : State) : Answer :=
  perform (withRm8 rm (shiftCl .ror)) s

/-- RCL Eb, CL (R274). -/
def execRclEbCl (rm : Rm8) (s : State) : Answer :=
  perform (withRm8 rm (shiftCl .rcl)) s

/-- RCR Eb, CL (R275). -/
def execRcrEbCl (rm : Rm8) (s : State) : Answer :=
  perform (withRm8 rm (shiftCl .rcr)) s

/-- SHL Eb, CL (R276). -/
def execShlEbCl (rm : Rm8) (s : State) : Answer :=
  perform (withRm8 rm (shiftCl .shl)) s

/-- SHR Eb, CL (R277). -/
def execShrEbCl (rm : Rm8) (s : State) : Answer :=
  perform (withRm8 rm (shiftCl .shr)) s

/-- SAR Eb, CL (R278). -/
def execSarEbCl (rm : Rm8) (s : State) : Answer :=
  perform (withRm8 rm (shiftCl .sar)) s

/-- ROL Ew, CL (R272). -/
def execRolEwCl (rm : Rm16) (s : State) : Answer :=
  perform (withRm16 rm (shiftCl .rol)) s

/-- ROR Ew, CL (R273). -/
def execRorEwCl (rm : Rm16) (s : State) : Answer :=
  perform (withRm16 rm (shiftCl .ror)) s

/-- RCL Ew, CL (R274). -/
def execRclEwCl (rm : Rm16) (s : State) : Answer :=
  perform (withRm16 rm (shiftCl .rcl)) s

/-- RCR Ew, CL (R275). -/
def execRcrEwCl (rm : Rm16) (s : State) : Answer :=
  perform (withRm16 rm (shiftCl .rcr)) s

/-- SHL Ew, CL (R276). -/
def execShlEwCl (rm : Rm16) (s : State) : Answer :=
  perform (withRm16 rm (shiftCl .shl)) s

/-- SHR Ew, CL (R277). -/
def execShrEwCl (rm : Rm16) (s : State) : Answer :=
  perform (withRm16 rm (shiftCl .shr)) s

/-- SAR Ew, CL (R278). -/
def execSarEwCl (rm : Rm16) (s : State) : Answer :=
  perform (withRm16 rm (shiftCl .sar)) s

end Sys2Proof.Machine
end

