-- ==== Sys2Proof/Machine/Stack.lean ====
section
/-! DEFINITION. INC, DEC and the stack instructions (42_incdec_stack.md): PUSH, POP, PUSHA, POPA, ENTER, LEAVE. -/

namespace Sys2Proof.Machine

/-! ### Shared operations -/

/-- INC (R233): CF stays. -/
def increment {n : Nat} (dst : Operand n) : Exec Unit := do
  let a ← dst.get
  modFlags fun f => f.setIncDec (addN a 1 false)
  dst.set (addN a 1 false).result

/-- DEC (R234): CF stays. -/
def decrement {n : Nat} (dst : Operand n) : Exec Unit := do
  let a ← dst.get
  modFlags fun f => f.setIncDec (subN a 1 false)
  dst.set (subN a 1 false).result

/-- PUSH of an operand (R235, R239, R241): its value is read before SP moves. -/
def pushOperand (src : Operand 16) : Exec Unit := do
  let v ← src.get
  push16 v

/-- POP into an operand (R236, R240): written after SP moved. -/
def popOperand (dst : Operand 16) : Exec Unit := do
  let v ← pop16
  dst.set v

/-- PUSH sreg (R237). -/
def pushSreg (r : Sreg) : Exec Unit := do
  let h ← getHart
  push16 (h.getSreg r)

/-- POP sreg (R238). -/
def popSreg (r : Sreg) : Exec Unit := do
  let v ← pop16
  modHart fun h => h.setSreg r v

/-- PUSHA (R242): the SP pushed is the one before the instruction. -/
def pushAll : Exec Unit := do
  let h ← getHart
  push16 h.AX
  push16 h.CX
  push16 h.DX
  push16 h.BX
  push16 h.SP
  push16 h.BP
  push16 h.SI
  push16 h.DI

/-- POPA (R243): the saved SP is skipped, not read. -/
def popAll : Exec Unit := do
  let di ← pop16
  modHart fun h => { h with DI := di }
  let si ← pop16
  modHart fun h => { h with SI := si }
  let bp ← pop16
  modHart fun h => { h with BP := bp }
  modHart fun h => { h with SP := h.SP + 2 }
  let bx ← pop16
  modHart fun h => { h with BX := bx }
  let dx ← pop16
  modHart fun h => { h with DX := dx }
  let cx ← pop16
  modHart fun h => { h with CX := cx }
  let ax ← pop16
  modHart fun h => { h with AX := ax }

/-- The display copies of ENTER (R244): each moves BP down and pushes the word there. -/
def enterCopies : (count : Nat) → Exec Unit
  | 0 => pure ()
  | k + 1 => do
    modHart fun h => { h with BP := h.BP - 2 }
    let h ← getHart
    let v ← memRead16 ⟨h.SS, h.BP⟩
    push16 v
    enterCopies k

/-- What ENTER pushes beside the old BP at nesting depth `level` (R244). -/
def enterDisplay (frame : Word) : (level : Nat) → Exec Unit
  | 0 => pure ()
  | k + 1 => do
    enterCopies k
    push16 frame

/-- ENTER (R244): the level is taken modulo 32. -/
def enterFrame (size : Word) (level : Byte) : Exec Unit := do
  let h ← getHart
  push16 h.BP
  let g ← getHart
  enterDisplay g.SP (level.toNat % 32)
  modHart fun h => { h with BP := g.SP, SP := h.SP - size }

/-- LEAVE (R245). -/
def leaveFrame : Exec Unit := do
  modHart fun h => { h with SP := h.BP }
  let v ← pop16
  modHart fun h => { h with BP := v }

/-! ### The meanings -/

/-- INC reg16 (R233). -/
def execIncReg16 (r : Reg16) (s : State) : Answer :=
  perform (increment (wordReg r)) s

/-- DEC reg16 (R234). -/
def execDecReg16 (r : Reg16) (s : State) : Answer :=
  perform (decrement (wordReg r)) s

/-- PUSH reg16 (R235). -/
def execPushReg16 (r : Reg16) (s : State) : Answer :=
  perform (pushOperand (wordReg r)) s

/-- POP reg16 (R236). -/
def execPopReg16 (r : Reg16) (s : State) : Answer :=
  perform (popOperand (wordReg r)) s

/-- PUSH imm16 (R241). -/
def execPushImm16 (imm : Word) (s : State) : Answer :=
  perform (pushOperand (immediate imm)) s

/-- PUSH simm8 (R241). -/
def execPushSimm8 (imm : Byte) (s : State) : Answer :=
  perform (pushOperand (immediate (sext8 imm))) s

/-- POP Ew (R240). -/
def execPopEw (rm : Rm16) (s : State) : Answer :=
  perform (withRm16 rm popOperand) s

/-- ENTER imm16, imm8 (R244). -/
def execEnterImm16Imm8 (size : Word) (level : Byte) (s : State) : Answer :=
  perform (enterFrame size level) s

/-- INC Eb (R233). -/
def execIncEb (rm : Rm8) (s : State) : Answer :=
  perform (withRm8 rm increment) s

/-- DEC Eb (R234). -/
def execDecEb (rm : Rm8) (s : State) : Answer :=
  perform (withRm8 rm decrement) s

/-- INC Ew (R233). -/
def execIncEw (rm : Rm16) (s : State) : Answer :=
  perform (withRm16 rm increment) s

/-- DEC Ew (R234). -/
def execDecEw (rm : Rm16) (s : State) : Answer :=
  perform (withRm16 rm decrement) s

/-- PUSH Ew (R239). -/
def execPushEw (rm : Rm16) (s : State) : Answer :=
  perform (withRm16 rm pushOperand) s

/-- PUSH ES (R237). -/
def execPushEs (s : State) : Answer :=
  perform (pushSreg .ES) s

/-- PUSH CS (R237). -/
def execPushCs (s : State) : Answer :=
  perform (pushSreg .CS) s

/-- PUSH SS (R237). -/
def execPushSs (s : State) : Answer :=
  perform (pushSreg .SS) s

/-- PUSH DS (R237). -/
def execPushDs (s : State) : Answer :=
  perform (pushSreg .DS) s

/-- POP ES (R238). -/
def execPopEs (s : State) : Answer :=
  perform (popSreg .ES) s

/-- POP SS (R238). -/
def execPopSs (s : State) : Answer :=
  perform (popSreg .SS) s

/-- POP DS (R238). -/
def execPopDs (s : State) : Answer :=
  perform (popSreg .DS) s

/-- PUSHA (R242). -/
def execPusha (s : State) : Answer :=
  perform pushAll s

/-- POPA (R243). -/
def execPopa (s : State) : Answer :=
  perform popAll s

/-- LEAVE (R245). -/
def execLeave (s : State) : Answer :=
  perform leaveFrame s

end Sys2Proof.Machine
end

