-- ==== Sys2Proof/Machine/Strings.lean ====
section
/-! DEFINITION. The string instructions and the repeat prefixes (44_string.md): MOVS, CMPS, STOS, LODS, SCAS. -/

namespace Sys2Proof.Machine

/-! ### The family, once -/

/-- An element width (R290): how an element is read and written, the accumulator, the step in bytes. -/
structure Element (n : Nat) where
  read : Addr → Exec (BitVec n)
  write : Addr → BitVec n → Exec Unit
  acc : Hart → BitVec n
  setAcc : Hart → BitVec n → Hart
  bytes : Word

/-- The byte forms: the accumulator is AL (R290). -/
def byteElement : Element 8 where
  read := memRead8
  write := memWrite8
  acc h := h.get8 .AL
  setAcc h v := h.set8 .AL v
  bytes := 1

/-- The word forms: the accumulator is AX (R290). -/
def wordElement : Element 16 where
  read := memRead16
  write := memWrite16
  acc h := h.AX
  setAcc h v := { h with AX := v }
  bytes := 2

/-- The step `d` (R290): up or down by DF. -/
def stringStep (bytes : Word) (h : Hart) : Word := if h.flags.DF then -bytes else bytes

/-- `advance SI` (R290). -/
def advanceSi (bytes : Word) : Exec Unit := modHart fun h => { h with SI := h.SI + stringStep bytes h }

/-- `advance DI` (R290). -/
def advanceDi (bytes : Word) : Exec Unit := modHart fun h => { h with DI := h.DI + stringStep bytes h }

/-- MOVS (R292). -/
def movs {n : Nat} (e : Element n) : Exec Unit := do
  let h ← getHart
  let v ← e.read ⟨h.DS, h.SI⟩
  e.write ⟨h.ES, h.DI⟩ v
  advanceSi e.bytes
  advanceDi e.bytes

/-- CMPS (R293): source minus destination. -/
def cmps {n : Nat} (e : Element n) : Exec Unit := do
  let h ← getHart
  let a ← e.read ⟨h.DS, h.SI⟩
  let b ← e.read ⟨h.ES, h.DI⟩
  modFlags fun f => f.setArith (subN a b false)
  advanceSi e.bytes
  advanceDi e.bytes

/-- STOS (R294). -/
def stos {n : Nat} (e : Element n) : Exec Unit := do
  let h ← getHart
  e.write ⟨h.ES, h.DI⟩ (e.acc h)
  advanceDi e.bytes

/-- LODS (R295). -/
def lods {n : Nat} (e : Element n) : Exec Unit := do
  let h ← getHart
  let v ← e.read ⟨h.DS, h.SI⟩
  modHart fun h => e.setAcc h v
  advanceSi e.bytes

/-- SCAS (R296): accumulator minus memory. -/
def scas {n : Nat} (e : Element n) : Exec Unit := do
  let h ← getHart
  let b ← e.read ⟨h.ES, h.DI⟩
  modFlags fun f => f.setArith (subN (e.acc h) b false)
  advanceDi e.bytes

/-- The loop of a repeat prefix (R291), for a number of iterations: CX goes down after each, and `stop` reads the
flags the iteration left. -/
def repeatLoop (body : Exec Unit) (stop : Flags → Bool) : (iterations : Nat) → Exec Unit
  | 0 => pure ()
  | k + 1 => do
    body
    modHart fun h => { h with CX := h.CX - 1 }
    let h ← getHart
    if stop h.flags then pure () else repeatLoop body stop k

/-- A repeated string instruction (R291): CX iterations at most; none of the bodies writes CX. -/
def repeatString (body : Exec Unit) (stop : Flags → Bool) : Exec Unit := do
  let h ← getHart
  repeatLoop body stop h.CX.toNat

/-- MOVS, STOS, LODS repeat CX times under either prefix (R291). -/
def neverStop : Flags → Bool := fun _ => false

/-- REPZ stops when the elements differ (R291). -/
def stopNotZero : Flags → Bool := fun f => !f.ZF

/-- REPNZ stops when they are equal (R291). -/
def stopZero : Flags → Bool := fun f => f.ZF

/-! ### The meanings -/

/-- MOVSB (R292). -/
def execMovsb (s : State) : Answer :=
  perform (movs byteElement) s

/-- MOVSW (R292). -/
def execMovsw (s : State) : Answer :=
  perform (movs wordElement) s

/-- CMPSB (R293). -/
def execCmpsb (s : State) : Answer :=
  perform (cmps byteElement) s

/-- CMPSW (R293). -/
def execCmpsw (s : State) : Answer :=
  perform (cmps wordElement) s

/-- STOSB (R294). -/
def execStosb (s : State) : Answer :=
  perform (stos byteElement) s

/-- STOSW (R294). -/
def execStosw (s : State) : Answer :=
  perform (stos wordElement) s

/-- LODSB (R295). -/
def execLodsb (s : State) : Answer :=
  perform (lods byteElement) s

/-- LODSW (R295). -/
def execLodsw (s : State) : Answer :=
  perform (lods wordElement) s

/-- SCASB (R296). -/
def execScasb (s : State) : Answer :=
  perform (scas byteElement) s

/-- SCASW (R296). -/
def execScasw (s : State) : Answer :=
  perform (scas wordElement) s

/-- REPNZ MOVSB (R291, R292). -/
def execRepnzMovsb (s : State) : Answer :=
  perform (repeatString (movs byteElement) neverStop) s

/-- REPNZ MOVSW (R291, R292). -/
def execRepnzMovsw (s : State) : Answer :=
  perform (repeatString (movs wordElement) neverStop) s

/-- REPNZ CMPSB (R291, R293). -/
def execRepnzCmpsb (s : State) : Answer :=
  perform (repeatString (cmps byteElement) stopZero) s

/-- REPNZ CMPSW (R291, R293). -/
def execRepnzCmpsw (s : State) : Answer :=
  perform (repeatString (cmps wordElement) stopZero) s

/-- REPNZ STOSB (R291, R294). -/
def execRepnzStosb (s : State) : Answer :=
  perform (repeatString (stos byteElement) neverStop) s

/-- REPNZ STOSW (R291, R294). -/
def execRepnzStosw (s : State) : Answer :=
  perform (repeatString (stos wordElement) neverStop) s

/-- REPNZ LODSB (R291, R295). -/
def execRepnzLodsb (s : State) : Answer :=
  perform (repeatString (lods byteElement) neverStop) s

/-- REPNZ LODSW (R291, R295). -/
def execRepnzLodsw (s : State) : Answer :=
  perform (repeatString (lods wordElement) neverStop) s

/-- REPNZ SCASB (R291, R296). -/
def execRepnzScasb (s : State) : Answer :=
  perform (repeatString (scas byteElement) stopZero) s

/-- REPNZ SCASW (R291, R296). -/
def execRepnzScasw (s : State) : Answer :=
  perform (repeatString (scas wordElement) stopZero) s

/-- REP MOVSB (R291, R292). -/
def execRepMovsb (s : State) : Answer :=
  perform (repeatString (movs byteElement) neverStop) s

/-- REP MOVSW (R291, R292). -/
def execRepMovsw (s : State) : Answer :=
  perform (repeatString (movs wordElement) neverStop) s

/-- REPZ CMPSB (R291, R293). -/
def execRepzCmpsb (s : State) : Answer :=
  perform (repeatString (cmps byteElement) stopNotZero) s

/-- REPZ CMPSW (R291, R293). -/
def execRepzCmpsw (s : State) : Answer :=
  perform (repeatString (cmps wordElement) stopNotZero) s

/-- REP STOSB (R291, R294). -/
def execRepStosb (s : State) : Answer :=
  perform (repeatString (stos byteElement) neverStop) s

/-- REP STOSW (R291, R294). -/
def execRepStosw (s : State) : Answer :=
  perform (repeatString (stos wordElement) neverStop) s

/-- REP LODSB (R291, R295). -/
def execRepLodsb (s : State) : Answer :=
  perform (repeatString (lods byteElement) neverStop) s

/-- REP LODSW (R291, R295). -/
def execRepLodsw (s : State) : Answer :=
  perform (repeatString (lods wordElement) neverStop) s

/-- REPZ SCASB (R291, R296). -/
def execRepzScasb (s : State) : Answer :=
  perform (repeatString (scas byteElement) stopNotZero) s

/-- REPZ SCASW (R291, R296). -/
def execRepzScasw (s : State) : Answer :=
  perform (repeatString (scas wordElement) stopNotZero) s

end Sys2Proof.Machine
end

