-- ==== Sys2Proof/Machine/Dispatch.lean ====
section
/-! DEFINITION. `exec`: one arm per instruction, each one call of its meaning. -/

namespace Sys2Proof.Machine

def exec (i : Instr) (s : State) : Host.Outcome State Fault Refusal :=
  match i with
  | .addEbGb rm r => Sys2Proof.Machine.execAddEbGb rm r s
  | .addEwGw rm r => Sys2Proof.Machine.execAddEwGw rm r s
  | .addGbEb r rm => Sys2Proof.Machine.execAddGbEb r rm s
  | .addGwEw r rm => Sys2Proof.Machine.execAddGwEw r rm s
  | .addAlImm8 imm => Sys2Proof.Machine.execAddAlImm8 imm s
  | .addAxImm16 imm => Sys2Proof.Machine.execAddAxImm16 imm s
  | .orEbGb rm r => Sys2Proof.Machine.execOrEbGb rm r s
  | .orEwGw rm r => Sys2Proof.Machine.execOrEwGw rm r s
  | .orGbEb r rm => Sys2Proof.Machine.execOrGbEb r rm s
  | .orGwEw r rm => Sys2Proof.Machine.execOrGwEw r rm s
  | .orAlImm8 imm => Sys2Proof.Machine.execOrAlImm8 imm s
  | .orAxImm16 imm => Sys2Proof.Machine.execOrAxImm16 imm s
  | .adcEbGb rm r => Sys2Proof.Machine.execAdcEbGb rm r s
  | .adcEwGw rm r => Sys2Proof.Machine.execAdcEwGw rm r s
  | .adcGbEb r rm => Sys2Proof.Machine.execAdcGbEb r rm s
  | .adcGwEw r rm => Sys2Proof.Machine.execAdcGwEw r rm s
  | .adcAlImm8 imm => Sys2Proof.Machine.execAdcAlImm8 imm s
  | .adcAxImm16 imm => Sys2Proof.Machine.execAdcAxImm16 imm s
  | .sbbEbGb rm r => Sys2Proof.Machine.execSbbEbGb rm r s
  | .sbbEwGw rm r => Sys2Proof.Machine.execSbbEwGw rm r s
  | .sbbGbEb r rm => Sys2Proof.Machine.execSbbGbEb r rm s
  | .sbbGwEw r rm => Sys2Proof.Machine.execSbbGwEw r rm s
  | .sbbAlImm8 imm => Sys2Proof.Machine.execSbbAlImm8 imm s
  | .sbbAxImm16 imm => Sys2Proof.Machine.execSbbAxImm16 imm s
  | .andEbGb rm r => Sys2Proof.Machine.execAndEbGb rm r s
  | .andEwGw rm r => Sys2Proof.Machine.execAndEwGw rm r s
  | .andGbEb r rm => Sys2Proof.Machine.execAndGbEb r rm s
  | .andGwEw r rm => Sys2Proof.Machine.execAndGwEw r rm s
  | .andAlImm8 imm => Sys2Proof.Machine.execAndAlImm8 imm s
  | .andAxImm16 imm => Sys2Proof.Machine.execAndAxImm16 imm s
  | .subEbGb rm r => Sys2Proof.Machine.execSubEbGb rm r s
  | .subEwGw rm r => Sys2Proof.Machine.execSubEwGw rm r s
  | .subGbEb r rm => Sys2Proof.Machine.execSubGbEb r rm s
  | .subGwEw r rm => Sys2Proof.Machine.execSubGwEw r rm s
  | .subAlImm8 imm => Sys2Proof.Machine.execSubAlImm8 imm s
  | .subAxImm16 imm => Sys2Proof.Machine.execSubAxImm16 imm s
  | .xorEbGb rm r => Sys2Proof.Machine.execXorEbGb rm r s
  | .xorEwGw rm r => Sys2Proof.Machine.execXorEwGw rm r s
  | .xorGbEb r rm => Sys2Proof.Machine.execXorGbEb r rm s
  | .xorGwEw r rm => Sys2Proof.Machine.execXorGwEw r rm s
  | .xorAlImm8 imm => Sys2Proof.Machine.execXorAlImm8 imm s
  | .xorAxImm16 imm => Sys2Proof.Machine.execXorAxImm16 imm s
  | .cmpEbGb rm r => Sys2Proof.Machine.execCmpEbGb rm r s
  | .cmpEwGw rm r => Sys2Proof.Machine.execCmpEwGw rm r s
  | .cmpGbEb r rm => Sys2Proof.Machine.execCmpGbEb r rm s
  | .cmpGwEw r rm => Sys2Proof.Machine.execCmpGwEw r rm s
  | .cmpAlImm8 imm => Sys2Proof.Machine.execCmpAlImm8 imm s
  | .cmpAxImm16 imm => Sys2Proof.Machine.execCmpAxImm16 imm s
  | .incReg16 r => Sys2Proof.Machine.execIncReg16 r s
  | .decReg16 r => Sys2Proof.Machine.execDecReg16 r s
  | .pushReg16 r => Sys2Proof.Machine.execPushReg16 r s
  | .popReg16 r => Sys2Proof.Machine.execPopReg16 r s
  | .pushImm16 imm => Sys2Proof.Machine.execPushImm16 imm s
  | .imulGwEwImm16 r rm imm => Sys2Proof.Machine.execImulGwEwImm16 r rm imm s
  | .pushSimm8 imm => Sys2Proof.Machine.execPushSimm8 imm s
  | .imulGwEwSimm8 r rm imm => Sys2Proof.Machine.execImulGwEwSimm8 r rm imm s
  | .joRel8 rel => Sys2Proof.Machine.execJoRel8 rel s
  | .jnoRel8 rel => Sys2Proof.Machine.execJnoRel8 rel s
  | .jbRel8 rel => Sys2Proof.Machine.execJbRel8 rel s
  | .jnbRel8 rel => Sys2Proof.Machine.execJnbRel8 rel s
  | .jzRel8 rel => Sys2Proof.Machine.execJzRel8 rel s
  | .jnzRel8 rel => Sys2Proof.Machine.execJnzRel8 rel s
  | .jbeRel8 rel => Sys2Proof.Machine.execJbeRel8 rel s
  | .jaRel8 rel => Sys2Proof.Machine.execJaRel8 rel s
  | .jsRel8 rel => Sys2Proof.Machine.execJsRel8 rel s
  | .jnsRel8 rel => Sys2Proof.Machine.execJnsRel8 rel s
  | .jpRel8 rel => Sys2Proof.Machine.execJpRel8 rel s
  | .jnpRel8 rel => Sys2Proof.Machine.execJnpRel8 rel s
  | .jlRel8 rel => Sys2Proof.Machine.execJlRel8 rel s
  | .jgeRel8 rel => Sys2Proof.Machine.execJgeRel8 rel s
  | .jleRel8 rel => Sys2Proof.Machine.execJleRel8 rel s
  | .jgRel8 rel => Sys2Proof.Machine.execJgRel8 rel s
  | .addEbImm8 rm imm => Sys2Proof.Machine.execAddEbImm8 rm imm s
  | .orEbImm8 rm imm => Sys2Proof.Machine.execOrEbImm8 rm imm s
  | .adcEbImm8 rm imm => Sys2Proof.Machine.execAdcEbImm8 rm imm s
  | .sbbEbImm8 rm imm => Sys2Proof.Machine.execSbbEbImm8 rm imm s
  | .andEbImm8 rm imm => Sys2Proof.Machine.execAndEbImm8 rm imm s
  | .subEbImm8 rm imm => Sys2Proof.Machine.execSubEbImm8 rm imm s
  | .xorEbImm8 rm imm => Sys2Proof.Machine.execXorEbImm8 rm imm s
  | .cmpEbImm8 rm imm => Sys2Proof.Machine.execCmpEbImm8 rm imm s
  | .addEwImm16 rm imm => Sys2Proof.Machine.execAddEwImm16 rm imm s
  | .orEwImm16 rm imm => Sys2Proof.Machine.execOrEwImm16 rm imm s
  | .adcEwImm16 rm imm => Sys2Proof.Machine.execAdcEwImm16 rm imm s
  | .sbbEwImm16 rm imm => Sys2Proof.Machine.execSbbEwImm16 rm imm s
  | .andEwImm16 rm imm => Sys2Proof.Machine.execAndEwImm16 rm imm s
  | .subEwImm16 rm imm => Sys2Proof.Machine.execSubEwImm16 rm imm s
  | .xorEwImm16 rm imm => Sys2Proof.Machine.execXorEwImm16 rm imm s
  | .cmpEwImm16 rm imm => Sys2Proof.Machine.execCmpEwImm16 rm imm s
  | .addEwSimm8 rm imm => Sys2Proof.Machine.execAddEwSimm8 rm imm s
  | .orEwSimm8 rm imm => Sys2Proof.Machine.execOrEwSimm8 rm imm s
  | .adcEwSimm8 rm imm => Sys2Proof.Machine.execAdcEwSimm8 rm imm s
  | .sbbEwSimm8 rm imm => Sys2Proof.Machine.execSbbEwSimm8 rm imm s
  | .andEwSimm8 rm imm => Sys2Proof.Machine.execAndEwSimm8 rm imm s
  | .subEwSimm8 rm imm => Sys2Proof.Machine.execSubEwSimm8 rm imm s
  | .xorEwSimm8 rm imm => Sys2Proof.Machine.execXorEwSimm8 rm imm s
  | .cmpEwSimm8 rm imm => Sys2Proof.Machine.execCmpEwSimm8 rm imm s
  | .testEbGb rm r => Sys2Proof.Machine.execTestEbGb rm r s
  | .testEwGw rm r => Sys2Proof.Machine.execTestEwGw rm r s
  | .xchgGbEb r rm => Sys2Proof.Machine.execXchgGbEb r rm s
  | .xchgGwEw r rm => Sys2Proof.Machine.execXchgGwEw r rm s
  | .movEbGb rm r => Sys2Proof.Machine.execMovEbGb rm r s
  | .movEwGw rm r => Sys2Proof.Machine.execMovEwGw rm r s
  | .movGbEb r rm => Sys2Proof.Machine.execMovGbEb r rm s
  | .movGwEw r rm => Sys2Proof.Machine.execMovGwEw r rm s
  | .movEwSw rm sr => Sys2Proof.Machine.execMovEwSw rm sr s
  | .leaGwM r m => Sys2Proof.Machine.execLeaGwM r m s
  | .leaRegister rrr iii => Sys2Proof.Machine.execLeaRegister rrr iii s
  | .movSwEw sr rm => Sys2Proof.Machine.execMovSwEw sr rm s
  | .popEw rm => Sys2Proof.Machine.execPopEw rm s
  | .invalid8Fs1 mm iii => Sys2Proof.Machine.execInvalid8Fs1 mm iii s
  | .invalid8Fs2 mm iii => Sys2Proof.Machine.execInvalid8Fs2 mm iii s
  | .invalid8Fs3 mm iii => Sys2Proof.Machine.execInvalid8Fs3 mm iii s
  | .invalid8Fs4 mm iii => Sys2Proof.Machine.execInvalid8Fs4 mm iii s
  | .invalid8Fs5 mm iii => Sys2Proof.Machine.execInvalid8Fs5 mm iii s
  | .invalid8Fs6 mm iii => Sys2Proof.Machine.execInvalid8Fs6 mm iii s
  | .invalid8Fs7 mm iii => Sys2Proof.Machine.execInvalid8Fs7 mm iii s
  | .xchgAxReg16 r => Sys2Proof.Machine.execXchgAxReg16 r s
  | .callPtr1616 off seg => Sys2Proof.Machine.execCallPtr1616 off seg s
  | .nrgBroken good b => Sys2Proof.Machine.execNrgBroken good b s
  | .movAlMoffs16 moffs => Sys2Proof.Machine.execMovAlMoffs16 moffs s
  | .movAxMoffs16 moffs => Sys2Proof.Machine.execMovAxMoffs16 moffs s
  | .movMoffs16Al moffs => Sys2Proof.Machine.execMovMoffs16Al moffs s
  | .movMoffs16Ax moffs => Sys2Proof.Machine.execMovMoffs16Ax moffs s
  | .testAlImm8 imm => Sys2Proof.Machine.execTestAlImm8 imm s
  | .testAxImm16 imm => Sys2Proof.Machine.execTestAxImm16 imm s
  | .movReg8Imm8 r imm => Sys2Proof.Machine.execMovReg8Imm8 r imm s
  | .movReg16Imm16 r imm => Sys2Proof.Machine.execMovReg16Imm16 r imm s
  | .rolEbImm8 rm imm => Sys2Proof.Machine.execRolEbImm8 rm imm s
  | .rorEbImm8 rm imm => Sys2Proof.Machine.execRorEbImm8 rm imm s
  | .rclEbImm8 rm imm => Sys2Proof.Machine.execRclEbImm8 rm imm s
  | .rcrEbImm8 rm imm => Sys2Proof.Machine.execRcrEbImm8 rm imm s
  | .shlEbImm8 rm imm => Sys2Proof.Machine.execShlEbImm8 rm imm s
  | .shrEbImm8 rm imm => Sys2Proof.Machine.execShrEbImm8 rm imm s
  | .invalidC0s6 mm iii => Sys2Proof.Machine.execInvalidC0s6 mm iii s
  | .sarEbImm8 rm imm => Sys2Proof.Machine.execSarEbImm8 rm imm s
  | .rolEwImm8 rm imm => Sys2Proof.Machine.execRolEwImm8 rm imm s
  | .rorEwImm8 rm imm => Sys2Proof.Machine.execRorEwImm8 rm imm s
  | .rclEwImm8 rm imm => Sys2Proof.Machine.execRclEwImm8 rm imm s
  | .rcrEwImm8 rm imm => Sys2Proof.Machine.execRcrEwImm8 rm imm s
  | .shlEwImm8 rm imm => Sys2Proof.Machine.execShlEwImm8 rm imm s
  | .shrEwImm8 rm imm => Sys2Proof.Machine.execShrEwImm8 rm imm s
  | .invalidC1s6 mm iii => Sys2Proof.Machine.execInvalidC1s6 mm iii s
  | .sarEwImm8 rm imm => Sys2Proof.Machine.execSarEwImm8 rm imm s
  | .rolEb1 rm => Sys2Proof.Machine.execRolEb1 rm s
  | .rorEb1 rm => Sys2Proof.Machine.execRorEb1 rm s
  | .rclEb1 rm => Sys2Proof.Machine.execRclEb1 rm s
  | .rcrEb1 rm => Sys2Proof.Machine.execRcrEb1 rm s
  | .shlEb1 rm => Sys2Proof.Machine.execShlEb1 rm s
  | .shrEb1 rm => Sys2Proof.Machine.execShrEb1 rm s
  | .invalidD0s6 mm iii => Sys2Proof.Machine.execInvalidD0s6 mm iii s
  | .sarEb1 rm => Sys2Proof.Machine.execSarEb1 rm s
  | .rolEw1 rm => Sys2Proof.Machine.execRolEw1 rm s
  | .rorEw1 rm => Sys2Proof.Machine.execRorEw1 rm s
  | .rclEw1 rm => Sys2Proof.Machine.execRclEw1 rm s
  | .rcrEw1 rm => Sys2Proof.Machine.execRcrEw1 rm s
  | .shlEw1 rm => Sys2Proof.Machine.execShlEw1 rm s
  | .shrEw1 rm => Sys2Proof.Machine.execShrEw1 rm s
  | .invalidD1s6 mm iii => Sys2Proof.Machine.execInvalidD1s6 mm iii s
  | .sarEw1 rm => Sys2Proof.Machine.execSarEw1 rm s
  | .rolEbCl rm => Sys2Proof.Machine.execRolEbCl rm s
  | .rorEbCl rm => Sys2Proof.Machine.execRorEbCl rm s
  | .rclEbCl rm => Sys2Proof.Machine.execRclEbCl rm s
  | .rcrEbCl rm => Sys2Proof.Machine.execRcrEbCl rm s
  | .shlEbCl rm => Sys2Proof.Machine.execShlEbCl rm s
  | .shrEbCl rm => Sys2Proof.Machine.execShrEbCl rm s
  | .invalidD2s6 mm iii => Sys2Proof.Machine.execInvalidD2s6 mm iii s
  | .sarEbCl rm => Sys2Proof.Machine.execSarEbCl rm s
  | .rolEwCl rm => Sys2Proof.Machine.execRolEwCl rm s
  | .rorEwCl rm => Sys2Proof.Machine.execRorEwCl rm s
  | .rclEwCl rm => Sys2Proof.Machine.execRclEwCl rm s
  | .rcrEwCl rm => Sys2Proof.Machine.execRcrEwCl rm s
  | .shlEwCl rm => Sys2Proof.Machine.execShlEwCl rm s
  | .shrEwCl rm => Sys2Proof.Machine.execShrEwCl rm s
  | .invalidD3s6 mm iii => Sys2Proof.Machine.execInvalidD3s6 mm iii s
  | .sarEwCl rm => Sys2Proof.Machine.execSarEwCl rm s
  | .retImm16 imm => Sys2Proof.Machine.execRetImm16 imm s
  | .lesGwM r m => Sys2Proof.Machine.execLesGwM r m s
  | .lesRegister rrr iii => Sys2Proof.Machine.execLesRegister rrr iii s
  | .ldsGwM r m => Sys2Proof.Machine.execLdsGwM r m s
  | .ldsRegister rrr iii => Sys2Proof.Machine.execLdsRegister rrr iii s
  | .movEbImm8 rm imm => Sys2Proof.Machine.execMovEbImm8 rm imm s
  | .movEwImm16 rm imm => Sys2Proof.Machine.execMovEwImm16 rm imm s
  | .invalidC6s1 mm iii => Sys2Proof.Machine.execInvalidC6s1 mm iii s
  | .invalidC6s2 mm iii => Sys2Proof.Machine.execInvalidC6s2 mm iii s
  | .invalidC6s3 mm iii => Sys2Proof.Machine.execInvalidC6s3 mm iii s
  | .invalidC6s4 mm iii => Sys2Proof.Machine.execInvalidC6s4 mm iii s
  | .invalidC6s5 mm iii => Sys2Proof.Machine.execInvalidC6s5 mm iii s
  | .invalidC6s6 mm iii => Sys2Proof.Machine.execInvalidC6s6 mm iii s
  | .invalidC6s7 mm iii => Sys2Proof.Machine.execInvalidC6s7 mm iii s
  | .invalidC7s1 mm iii => Sys2Proof.Machine.execInvalidC7s1 mm iii s
  | .invalidC7s2 mm iii => Sys2Proof.Machine.execInvalidC7s2 mm iii s
  | .invalidC7s3 mm iii => Sys2Proof.Machine.execInvalidC7s3 mm iii s
  | .invalidC7s4 mm iii => Sys2Proof.Machine.execInvalidC7s4 mm iii s
  | .invalidC7s5 mm iii => Sys2Proof.Machine.execInvalidC7s5 mm iii s
  | .invalidC7s6 mm iii => Sys2Proof.Machine.execInvalidC7s6 mm iii s
  | .invalidC7s7 mm iii => Sys2Proof.Machine.execInvalidC7s7 mm iii s
  | .enterImm16Imm8 size level => Sys2Proof.Machine.execEnterImm16Imm8 size level s
  | .retfImm16 imm => Sys2Proof.Machine.execRetfImm16 imm s
  | .intImm8 imm => Sys2Proof.Machine.execIntImm8 imm s
  | .esc n => Sys2Proof.Machine.execEsc n s
  | .loopnzRel8 rel => Sys2Proof.Machine.execLoopnzRel8 rel s
  | .loopzRel8 rel => Sys2Proof.Machine.execLoopzRel8 rel s
  | .loopRel8 rel => Sys2Proof.Machine.execLoopRel8 rel s
  | .jcxzRel8 rel => Sys2Proof.Machine.execJcxzRel8 rel s
  | .callRel16 rel => Sys2Proof.Machine.execCallRel16 rel s
  | .jmpRel16 rel => Sys2Proof.Machine.execJmpRel16 rel s
  | .jmpPtr1616 off seg => Sys2Proof.Machine.execJmpPtr1616 off seg s
  | .jmpRel8 rel => Sys2Proof.Machine.execJmpRel8 rel s
  | .repnzBroken b => Sys2Proof.Machine.execRepnzBroken b s
  | .repBroken b => Sys2Proof.Machine.execRepBroken b s
  | .testEbImm8 rm imm => Sys2Proof.Machine.execTestEbImm8 rm imm s
  | .invalidF6s1 mm iii => Sys2Proof.Machine.execInvalidF6s1 mm iii s
  | .notEb rm => Sys2Proof.Machine.execNotEb rm s
  | .negEb rm => Sys2Proof.Machine.execNegEb rm s
  | .mulEb rm => Sys2Proof.Machine.execMulEb rm s
  | .imulEb rm => Sys2Proof.Machine.execImulEb rm s
  | .divEb rm => Sys2Proof.Machine.execDivEb rm s
  | .idivEb rm => Sys2Proof.Machine.execIdivEb rm s
  | .testEwImm16 rm imm => Sys2Proof.Machine.execTestEwImm16 rm imm s
  | .invalidF7s1 mm iii => Sys2Proof.Machine.execInvalidF7s1 mm iii s
  | .notEw rm => Sys2Proof.Machine.execNotEw rm s
  | .negEw rm => Sys2Proof.Machine.execNegEw rm s
  | .mulEw rm => Sys2Proof.Machine.execMulEw rm s
  | .imulEw rm => Sys2Proof.Machine.execImulEw rm s
  | .divEw rm => Sys2Proof.Machine.execDivEw rm s
  | .idivEw rm => Sys2Proof.Machine.execIdivEw rm s
  | .incEb rm => Sys2Proof.Machine.execIncEb rm s
  | .decEb rm => Sys2Proof.Machine.execDecEb rm s
  | .invalidFEs2 mm iii => Sys2Proof.Machine.execInvalidFEs2 mm iii s
  | .invalidFEs3 mm iii => Sys2Proof.Machine.execInvalidFEs3 mm iii s
  | .invalidFEs4 mm iii => Sys2Proof.Machine.execInvalidFEs4 mm iii s
  | .invalidFEs5 mm iii => Sys2Proof.Machine.execInvalidFEs5 mm iii s
  | .invalidFEs6 mm iii => Sys2Proof.Machine.execInvalidFEs6 mm iii s
  | .invalidFEs7 mm iii => Sys2Proof.Machine.execInvalidFEs7 mm iii s
  | .incEw rm => Sys2Proof.Machine.execIncEw rm s
  | .decEw rm => Sys2Proof.Machine.execDecEw rm s
  | .callEw rm => Sys2Proof.Machine.execCallEw rm s
  | .callFarM m => Sys2Proof.Machine.execCallFarM m s
  | .jmpEw rm => Sys2Proof.Machine.execJmpEw rm s
  | .jmpFarM m => Sys2Proof.Machine.execJmpFarM m s
  | .pushEw rm => Sys2Proof.Machine.execPushEw rm s
  | .invalidFFs7 mm iii => Sys2Proof.Machine.execInvalidFFs7 mm iii s
  | .callFarRegister iii => Sys2Proof.Machine.execCallFarRegister iii s
  | .jmpFarRegister iii => Sys2Proof.Machine.execJmpFarRegister iii s
  | .pushEs => Sys2Proof.Machine.execPushEs s
  | .pushCs => Sys2Proof.Machine.execPushCs s
  | .pushSs => Sys2Proof.Machine.execPushSs s
  | .pushDs => Sys2Proof.Machine.execPushDs s
  | .popEs => Sys2Proof.Machine.execPopEs s
  | .popSs => Sys2Proof.Machine.execPopSs s
  | .popDs => Sys2Proof.Machine.execPopDs s
  | .invalid0F => Sys2Proof.Machine.execInvalid0F s
  | .esOverride => Sys2Proof.Machine.execEsOverride s
  | .csOverride => Sys2Proof.Machine.execCsOverride s
  | .ssOverride => Sys2Proof.Machine.execSsOverride s
  | .dsOverride => Sys2Proof.Machine.execDsOverride s
  | .daa => Sys2Proof.Machine.execDaa s
  | .das => Sys2Proof.Machine.execDas s
  | .aaa => Sys2Proof.Machine.execAaa s
  | .aas => Sys2Proof.Machine.execAas s
  | .aam => Sys2Proof.Machine.execAam s
  | .aad => Sys2Proof.Machine.execAad s
  | .pusha => Sys2Proof.Machine.execPusha s
  | .popa => Sys2Proof.Machine.execPopa s
  | .bound => Sys2Proof.Machine.execBound s
  | .invalid63 => Sys2Proof.Machine.execInvalid63 s
  | .invalid64 => Sys2Proof.Machine.execInvalid64 s
  | .invalid65 => Sys2Proof.Machine.execInvalid65 s
  | .invalid66 => Sys2Proof.Machine.execInvalid66 s
  | .invalid67 => Sys2Proof.Machine.execInvalid67 s
  | .insb => Sys2Proof.Machine.execInsb s
  | .insw => Sys2Proof.Machine.execInsw s
  | .outsb => Sys2Proof.Machine.execOutsb s
  | .outsw => Sys2Proof.Machine.execOutsw s
  | .invalid82 => Sys2Proof.Machine.execInvalid82 s
  | .nop => Sys2Proof.Machine.execNop s
  | .cbw => Sys2Proof.Machine.execCbw s
  | .cwd => Sys2Proof.Machine.execCwd s
  | .nrg => Sys2Proof.Machine.execNrg s
  | .pushf => Sys2Proof.Machine.execPushf s
  | .popf => Sys2Proof.Machine.execPopf s
  | .sahf => Sys2Proof.Machine.execSahf s
  | .lahf => Sys2Proof.Machine.execLahf s
  | .movsb => Sys2Proof.Machine.execMovsb s
  | .movsw => Sys2Proof.Machine.execMovsw s
  | .cmpsb => Sys2Proof.Machine.execCmpsb s
  | .cmpsw => Sys2Proof.Machine.execCmpsw s
  | .stosb => Sys2Proof.Machine.execStosb s
  | .stosw => Sys2Proof.Machine.execStosw s
  | .lodsb => Sys2Proof.Machine.execLodsb s
  | .lodsw => Sys2Proof.Machine.execLodsw s
  | .scasb => Sys2Proof.Machine.execScasb s
  | .scasw => Sys2Proof.Machine.execScasw s
  | .ret => Sys2Proof.Machine.execRet s
  | .leave => Sys2Proof.Machine.execLeave s
  | .retf => Sys2Proof.Machine.execRetf s
  | .int3 => Sys2Proof.Machine.execInt3 s
  | .int86 => Sys2Proof.Machine.execInt86 s
  | .int87 => Sys2Proof.Machine.execInt87 s
  | .int88 => Sys2Proof.Machine.execInt88 s
  | .into => Sys2Proof.Machine.execInto s
  | .iret => Sys2Proof.Machine.execIret s
  | .invalidD6 => Sys2Proof.Machine.execInvalidD6 s
  | .xlat => Sys2Proof.Machine.execXlat s
  | .inAlImm8 => Sys2Proof.Machine.execInAlImm8 s
  | .inAxImm8 => Sys2Proof.Machine.execInAxImm8 s
  | .outImm8Al => Sys2Proof.Machine.execOutImm8Al s
  | .outImm8Ax => Sys2Proof.Machine.execOutImm8Ax s
  | .inAlDx => Sys2Proof.Machine.execInAlDx s
  | .inAxDx => Sys2Proof.Machine.execInAxDx s
  | .outDxAl => Sys2Proof.Machine.execOutDxAl s
  | .outDxAx => Sys2Proof.Machine.execOutDxAx s
  | .lock => Sys2Proof.Machine.execLock s
  | .invalidF1 => Sys2Proof.Machine.execInvalidF1 s
  | .repnzMovsb => Sys2Proof.Machine.execRepnzMovsb s
  | .repnzMovsw => Sys2Proof.Machine.execRepnzMovsw s
  | .repnzCmpsb => Sys2Proof.Machine.execRepnzCmpsb s
  | .repnzCmpsw => Sys2Proof.Machine.execRepnzCmpsw s
  | .repnzStosb => Sys2Proof.Machine.execRepnzStosb s
  | .repnzStosw => Sys2Proof.Machine.execRepnzStosw s
  | .repnzLodsb => Sys2Proof.Machine.execRepnzLodsb s
  | .repnzLodsw => Sys2Proof.Machine.execRepnzLodsw s
  | .repnzScasb => Sys2Proof.Machine.execRepnzScasb s
  | .repnzScasw => Sys2Proof.Machine.execRepnzScasw s
  | .repMovsb => Sys2Proof.Machine.execRepMovsb s
  | .repMovsw => Sys2Proof.Machine.execRepMovsw s
  | .repzCmpsb => Sys2Proof.Machine.execRepzCmpsb s
  | .repzCmpsw => Sys2Proof.Machine.execRepzCmpsw s
  | .repStosb => Sys2Proof.Machine.execRepStosb s
  | .repStosw => Sys2Proof.Machine.execRepStosw s
  | .repLodsb => Sys2Proof.Machine.execRepLodsb s
  | .repLodsw => Sys2Proof.Machine.execRepLodsw s
  | .repzScasb => Sys2Proof.Machine.execRepzScasb s
  | .repzScasw => Sys2Proof.Machine.execRepzScasw s
  | .hlt => Sys2Proof.Machine.execHlt s
  | .cmc => Sys2Proof.Machine.execCmc s
  | .clc => Sys2Proof.Machine.execClc s
  | .stc => Sys2Proof.Machine.execStc s
  | .cli => Sys2Proof.Machine.execCli s
  | .sti => Sys2Proof.Machine.execSti s
  | .cld => Sys2Proof.Machine.execCld s
  | .std => Sys2Proof.Machine.execStd s

end Sys2Proof.Machine
end

