-- ==== Sys2Proof/WellFormed.lean ====
section
/-! DEFINITION. Which terms of the syntax are instructions: each term that is not is one whose bytes stand for
another row of the opcode table. -/

namespace Sys2Proof

/-- `[BP]` has no displacement-free encoding: submode 0 with `III` = 6 is the absolute form (R117). -/
def MemOp.wf : MemOp → Bool
  | .absolute _ => true
  | .plain b => b != .bp
  | .disp8 _ _ => true
  | .disp16 _ _ => true

def Rm8.wf : Rm8 → Bool
  | .reg _ => true
  | .mem m => m.wf

def Rm16.wf : Rm16 → Bool
  | .reg _ => true
  | .mem m => m.wf

/-- The ten string opcodes, the only bytes a repeat prefix may stand before (R131). -/
def isStringOpcode (b : Byte) : Bool :=
  [0xA4, 0xA5, 0xA6, 0xA7, 0xAA, 0xAB, 0xAC, 0xAD, 0xAE, 0xAF].contains b.toNat

/-- The vectors of the virtual interrupts, which have rows of their own (R136). -/
def isVirtualVector (n : Byte) : Bool := [0x86, 0x87, 0x88].contains n.toNat

/-- Whether a term is an instruction of the table's row it names. -/
def Instr.wf : Instr → Bool
  | .addEbGb rm _ => rm.wf
  | .addEwGw rm _ => rm.wf
  | .addGbEb _ rm => rm.wf
  | .addGwEw _ rm => rm.wf
  | .addAlImm8 _ => true
  | .addAxImm16 _ => true
  | .orEbGb rm _ => rm.wf
  | .orEwGw rm _ => rm.wf
  | .orGbEb _ rm => rm.wf
  | .orGwEw _ rm => rm.wf
  | .orAlImm8 _ => true
  | .orAxImm16 _ => true
  | .adcEbGb rm _ => rm.wf
  | .adcEwGw rm _ => rm.wf
  | .adcGbEb _ rm => rm.wf
  | .adcGwEw _ rm => rm.wf
  | .adcAlImm8 _ => true
  | .adcAxImm16 _ => true
  | .sbbEbGb rm _ => rm.wf
  | .sbbEwGw rm _ => rm.wf
  | .sbbGbEb _ rm => rm.wf
  | .sbbGwEw _ rm => rm.wf
  | .sbbAlImm8 _ => true
  | .sbbAxImm16 _ => true
  | .andEbGb rm _ => rm.wf
  | .andEwGw rm _ => rm.wf
  | .andGbEb _ rm => rm.wf
  | .andGwEw _ rm => rm.wf
  | .andAlImm8 _ => true
  | .andAxImm16 _ => true
  | .subEbGb rm _ => rm.wf
  | .subEwGw rm _ => rm.wf
  | .subGbEb _ rm => rm.wf
  | .subGwEw _ rm => rm.wf
  | .subAlImm8 _ => true
  | .subAxImm16 _ => true
  | .xorEbGb rm _ => rm.wf
  | .xorEwGw rm _ => rm.wf
  | .xorGbEb _ rm => rm.wf
  | .xorGwEw _ rm => rm.wf
  | .xorAlImm8 _ => true
  | .xorAxImm16 _ => true
  | .cmpEbGb rm _ => rm.wf
  | .cmpEwGw rm _ => rm.wf
  | .cmpGbEb _ rm => rm.wf
  | .cmpGwEw _ rm => rm.wf
  | .cmpAlImm8 _ => true
  | .cmpAxImm16 _ => true
  | .incReg16 _ => true
  | .decReg16 _ => true
  | .pushReg16 _ => true
  | .popReg16 _ => true
  | .pushImm16 _ => true
  | .imulGwEwImm16 _ rm _ => rm.wf
  | .pushSimm8 _ => true
  | .imulGwEwSimm8 _ rm _ => rm.wf
  | .joRel8 _ => true
  | .jnoRel8 _ => true
  | .jbRel8 _ => true
  | .jnbRel8 _ => true
  | .jzRel8 _ => true
  | .jnzRel8 _ => true
  | .jbeRel8 _ => true
  | .jaRel8 _ => true
  | .jsRel8 _ => true
  | .jnsRel8 _ => true
  | .jpRel8 _ => true
  | .jnpRel8 _ => true
  | .jlRel8 _ => true
  | .jgeRel8 _ => true
  | .jleRel8 _ => true
  | .jgRel8 _ => true
  | .addEbImm8 rm _ => rm.wf
  | .orEbImm8 rm _ => rm.wf
  | .adcEbImm8 rm _ => rm.wf
  | .sbbEbImm8 rm _ => rm.wf
  | .andEbImm8 rm _ => rm.wf
  | .subEbImm8 rm _ => rm.wf
  | .xorEbImm8 rm _ => rm.wf
  | .cmpEbImm8 rm _ => rm.wf
  | .addEwImm16 rm _ => rm.wf
  | .orEwImm16 rm _ => rm.wf
  | .adcEwImm16 rm _ => rm.wf
  | .sbbEwImm16 rm _ => rm.wf
  | .andEwImm16 rm _ => rm.wf
  | .subEwImm16 rm _ => rm.wf
  | .xorEwImm16 rm _ => rm.wf
  | .cmpEwImm16 rm _ => rm.wf
  | .addEwSimm8 rm _ => rm.wf
  | .orEwSimm8 rm _ => rm.wf
  | .adcEwSimm8 rm _ => rm.wf
  | .sbbEwSimm8 rm _ => rm.wf
  | .andEwSimm8 rm _ => rm.wf
  | .subEwSimm8 rm _ => rm.wf
  | .xorEwSimm8 rm _ => rm.wf
  | .cmpEwSimm8 rm _ => rm.wf
  | .testEbGb rm _ => rm.wf
  | .testEwGw rm _ => rm.wf
  | .xchgGbEb _ rm => rm.wf
  | .xchgGwEw _ rm => rm.wf
  | .movEbGb rm _ => rm.wf
  | .movEwGw rm _ => rm.wf
  | .movGbEb _ rm => rm.wf
  | .movGwEw _ rm => rm.wf
  | .movEwSw rm _ => rm.wf
  | .leaGwM _ m => m.wf
  | .leaRegister _ _ => true
  | .movSwEw _ rm => rm.wf
  | .popEw rm => rm.wf
  | .invalid8Fs1 _ _ => true
  | .invalid8Fs2 _ _ => true
  | .invalid8Fs3 _ _ => true
  | .invalid8Fs4 _ _ => true
  | .invalid8Fs5 _ _ => true
  | .invalid8Fs6 _ _ => true
  | .invalid8Fs7 _ _ => true
  | .xchgAxReg16 r => r != .AX
  | .callPtr1616 _ _ => true
  | .nrgBroken _ b => b != 0x9B
  | .movAlMoffs16 _ => true
  | .movAxMoffs16 _ => true
  | .movMoffs16Al _ => true
  | .movMoffs16Ax _ => true
  | .testAlImm8 _ => true
  | .testAxImm16 _ => true
  | .movReg8Imm8 _ _ => true
  | .movReg16Imm16 _ _ => true
  | .rolEbImm8 rm _ => rm.wf
  | .rorEbImm8 rm _ => rm.wf
  | .rclEbImm8 rm _ => rm.wf
  | .rcrEbImm8 rm _ => rm.wf
  | .shlEbImm8 rm _ => rm.wf
  | .shrEbImm8 rm _ => rm.wf
  | .invalidC0s6 _ _ => true
  | .sarEbImm8 rm _ => rm.wf
  | .rolEwImm8 rm _ => rm.wf
  | .rorEwImm8 rm _ => rm.wf
  | .rclEwImm8 rm _ => rm.wf
  | .rcrEwImm8 rm _ => rm.wf
  | .shlEwImm8 rm _ => rm.wf
  | .shrEwImm8 rm _ => rm.wf
  | .invalidC1s6 _ _ => true
  | .sarEwImm8 rm _ => rm.wf
  | .rolEb1 rm => rm.wf
  | .rorEb1 rm => rm.wf
  | .rclEb1 rm => rm.wf
  | .rcrEb1 rm => rm.wf
  | .shlEb1 rm => rm.wf
  | .shrEb1 rm => rm.wf
  | .invalidD0s6 _ _ => true
  | .sarEb1 rm => rm.wf
  | .rolEw1 rm => rm.wf
  | .rorEw1 rm => rm.wf
  | .rclEw1 rm => rm.wf
  | .rcrEw1 rm => rm.wf
  | .shlEw1 rm => rm.wf
  | .shrEw1 rm => rm.wf
  | .invalidD1s6 _ _ => true
  | .sarEw1 rm => rm.wf
  | .rolEbCl rm => rm.wf
  | .rorEbCl rm => rm.wf
  | .rclEbCl rm => rm.wf
  | .rcrEbCl rm => rm.wf
  | .shlEbCl rm => rm.wf
  | .shrEbCl rm => rm.wf
  | .invalidD2s6 _ _ => true
  | .sarEbCl rm => rm.wf
  | .rolEwCl rm => rm.wf
  | .rorEwCl rm => rm.wf
  | .rclEwCl rm => rm.wf
  | .rcrEwCl rm => rm.wf
  | .shlEwCl rm => rm.wf
  | .shrEwCl rm => rm.wf
  | .invalidD3s6 _ _ => true
  | .sarEwCl rm => rm.wf
  | .retImm16 _ => true
  | .lesGwM _ m => m.wf
  | .lesRegister _ _ => true
  | .ldsGwM _ m => m.wf
  | .ldsRegister _ _ => true
  | .movEbImm8 rm _ => rm.wf
  | .movEwImm16 rm _ => rm.wf
  | .invalidC6s1 _ _ => true
  | .invalidC6s2 _ _ => true
  | .invalidC6s3 _ _ => true
  | .invalidC6s4 _ _ => true
  | .invalidC6s5 _ _ => true
  | .invalidC6s6 _ _ => true
  | .invalidC6s7 _ _ => true
  | .invalidC7s1 _ _ => true
  | .invalidC7s2 _ _ => true
  | .invalidC7s3 _ _ => true
  | .invalidC7s4 _ _ => true
  | .invalidC7s5 _ _ => true
  | .invalidC7s6 _ _ => true
  | .invalidC7s7 _ _ => true
  | .enterImm16Imm8 _ _ => true
  | .retfImm16 _ => true
  | .intImm8 imm => !isVirtualVector imm
  | .esc _ => true
  | .loopnzRel8 _ => true
  | .loopzRel8 _ => true
  | .loopRel8 _ => true
  | .jcxzRel8 _ => true
  | .callRel16 _ => true
  | .jmpRel16 _ => true
  | .jmpPtr1616 _ _ => true
  | .jmpRel8 _ => true
  | .repnzBroken b => !isStringOpcode b
  | .repBroken b => !isStringOpcode b
  | .testEbImm8 rm _ => rm.wf
  | .invalidF6s1 _ _ => true
  | .notEb rm => rm.wf
  | .negEb rm => rm.wf
  | .mulEb rm => rm.wf
  | .imulEb rm => rm.wf
  | .divEb rm => rm.wf
  | .idivEb rm => rm.wf
  | .testEwImm16 rm _ => rm.wf
  | .invalidF7s1 _ _ => true
  | .notEw rm => rm.wf
  | .negEw rm => rm.wf
  | .mulEw rm => rm.wf
  | .imulEw rm => rm.wf
  | .divEw rm => rm.wf
  | .idivEw rm => rm.wf
  | .incEb rm => rm.wf
  | .decEb rm => rm.wf
  | .invalidFEs2 _ _ => true
  | .invalidFEs3 _ _ => true
  | .invalidFEs4 _ _ => true
  | .invalidFEs5 _ _ => true
  | .invalidFEs6 _ _ => true
  | .invalidFEs7 _ _ => true
  | .incEw rm => rm.wf
  | .decEw rm => rm.wf
  | .callEw rm => rm.wf
  | .callFarM m => m.wf
  | .jmpEw rm => rm.wf
  | .jmpFarM m => m.wf
  | .pushEw rm => rm.wf
  | .invalidFFs7 _ _ => true
  | .callFarRegister _ => true
  | .jmpFarRegister _ => true
  | .pushEs => true
  | .pushCs => true
  | .pushSs => true
  | .pushDs => true
  | .popEs => true
  | .popSs => true
  | .popDs => true
  | .invalid0F => true
  | .esOverride => true
  | .csOverride => true
  | .ssOverride => true
  | .dsOverride => true
  | .daa => true
  | .das => true
  | .aaa => true
  | .aas => true
  | .aam => true
  | .aad => true
  | .pusha => true
  | .popa => true
  | .bound => true
  | .invalid63 => true
  | .invalid64 => true
  | .invalid65 => true
  | .invalid66 => true
  | .invalid67 => true
  | .insb => true
  | .insw => true
  | .outsb => true
  | .outsw => true
  | .invalid82 => true
  | .nop => true
  | .cbw => true
  | .cwd => true
  | .nrg => true
  | .pushf => true
  | .popf => true
  | .sahf => true
  | .lahf => true
  | .movsb => true
  | .movsw => true
  | .cmpsb => true
  | .cmpsw => true
  | .stosb => true
  | .stosw => true
  | .lodsb => true
  | .lodsw => true
  | .scasb => true
  | .scasw => true
  | .ret => true
  | .leave => true
  | .retf => true
  | .int3 => true
  | .int86 => true
  | .int87 => true
  | .int88 => true
  | .into => true
  | .iret => true
  | .invalidD6 => true
  | .xlat => true
  | .inAlImm8 => true
  | .inAxImm8 => true
  | .outImm8Al => true
  | .outImm8Ax => true
  | .inAlDx => true
  | .inAxDx => true
  | .outDxAl => true
  | .outDxAx => true
  | .lock => true
  | .invalidF1 => true
  | .repnzMovsb => true
  | .repnzMovsw => true
  | .repnzCmpsb => true
  | .repnzCmpsw => true
  | .repnzStosb => true
  | .repnzStosw => true
  | .repnzLodsb => true
  | .repnzLodsw => true
  | .repnzScasb => true
  | .repnzScasw => true
  | .repMovsb => true
  | .repMovsw => true
  | .repzCmpsb => true
  | .repzCmpsw => true
  | .repStosb => true
  | .repStosw => true
  | .repLodsb => true
  | .repLodsw => true
  | .repzScasb => true
  | .repzScasw => true
  | .hlt => true
  | .cmc => true
  | .clc => true
  | .stc => true
  | .cli => true
  | .sti => true
  | .cld => true
  | .std => true

end Sys2Proof
end

