-- ==== Sys2Proof/Decode.lean ====
section
/-! DEFINITION. The decoder (30_encoding.md): from a byte string to the instruction at its head; and the encoder,
from the same tables. -/

namespace Sys2Proof

/-! ### Indices -/

/-- The 3-bit index of a byte register (R25). -/
def Reg8.index : Reg8 → BitVec 3
  | .AL => 0
  | .CL => 1
  | .DL => 2
  | .BL => 3
  | .AH => 4
  | .CH => 5
  | .DH => 6
  | .BH => 7

/-- `reg8[index]` (R25). -/
def Reg8.ofIndex (i : BitVec 3) : Reg8 :=
  match i.toNat with
  | 0 => .AL
  | 1 => .CL
  | 2 => .DL
  | 3 => .BL
  | 4 => .AH
  | 5 => .CH
  | 6 => .DH
  | _ => .BH

/-- The 3-bit index of a word register (R24). -/
def Reg16.index : Reg16 → BitVec 3
  | .AX => 0
  | .CX => 1
  | .DX => 2
  | .BX => 3
  | .SP => 4
  | .BP => 5
  | .SI => 6
  | .DI => 7

/-- `reg16[index]` (R24). -/
def Reg16.ofIndex (i : BitVec 3) : Reg16 :=
  match i.toNat with
  | 0 => .AX
  | 1 => .CX
  | 2 => .DX
  | 3 => .BX
  | 4 => .SP
  | 5 => .BP
  | 6 => .SI
  | _ => .DI

/-- The `III` value of a base/index pair (R117). -/
def Base.index : Base → BitVec 3
  | .bxSi => 0
  | .bxDi => 1
  | .bpSi => 2
  | .bpDi => 3
  | .si => 4
  | .di => 5
  | .bp => 6
  | .bx => 7

/-- The base/index pair that `III` selects (R117). -/
def Base.ofIndex (i : BitVec 3) : Base :=
  match i.toNat with
  | 0 => .bxSi
  | 1 => .bxDi
  | 2 => .bpSi
  | 3 => .bpDi
  | 4 => .si
  | 5 => .di
  | 6 => .bp
  | _ => .bx

/-! ### The parts of the encoder -/

/-- The ModRM byte `MM RRR III` (R113). -/
def modrmByte (mm : BitVec 2) (rrr iii : BitVec 3) : Byte := mm ++ rrr ++ iii

/-- A word in the instruction stream, low byte first (R71, R122). -/
def wordBytes (w : Word) : List Byte := [w.extractLsb' 0 8, w.extractLsb' 8 8]

/-- ModRM byte and displacement of a memory operand (R113, R119). -/
def MemOp.bytes (m : MemOp) (rrr : BitVec 3) : List Byte :=
  match m with
  | .absolute d => modrmByte 0 rrr 6 :: wordBytes d
  | .plain b => [modrmByte 0 rrr b.index]
  | .disp8 b d => [modrmByte 1 rrr b.index, d]
  | .disp16 b d => modrmByte 2 rrr b.index :: wordBytes d

/-- ModRM byte and displacement of an `Eb` operand (R116, R119). -/
def Rm8.bytes (rm : Rm8) (rrr : BitVec 3) : List Byte :=
  match rm with
  | .reg r => [modrmByte 3 rrr r.index]
  | .mem m => m.bytes rrr

/-- ModRM byte and displacement of an `Ew` operand (R116, R119). -/
def Rm16.bytes (rm : Rm16) (rrr : BitVec 3) : List Byte :=
  match rm with
  | .reg r => [modrmByte 3 rrr r.index]
  | .mem m => m.bytes rrr

/-! ### The parts of the decoder -/

/-- Why no instruction can be read: the bytes end before the instruction does. -/
inductive DecodeError where
  | truncated
deriving DecidableEq, Repr

/-- What reading an instruction answers: it and the bytes after it. -/
abbrev Parsed := Except DecodeError (Instr × List Byte)

/-- Reads the part of an instruction that follows the bytes already seen. -/
abbrev Parser := List Byte → Parsed

/-- Reads the part of a group instruction that follows its ModRM byte, from `MM` and `III`. -/
abbrev SubParser := BitVec 2 → BitVec 3 → Parser

/-- The next byte of the stream. -/
def nextByte (bs : List Byte) (k : Byte → Parser) : Parsed :=
  match bs with
  | [] => .error .truncated
  | b :: rest => k b rest

/-- The next word of the stream, low byte first (R80). -/
def nextWord (bs : List Byte) (k : Word → Parser) : Parsed :=
  nextByte bs fun lo rest => nextByte rest fun hi rest' => k (hi ++ lo) rest'

/-- The ModRM byte split into `MM`, `RRR`, `III` (R113). -/
def nextModrm (bs : List Byte) (k : BitVec 2 → BitVec 3 → BitVec 3 → Parser) : Parsed :=
  nextByte bs fun b rest => k (b.extractLsb' 6 2) (b.extractLsb' 3 3) (b.extractLsb' 0 3) rest

/-- The memory operand of submodes 0 to 2 with its displacement (R117, R119). -/
def nextMem (mm : BitVec 2) (iii : BitVec 3) (bs : List Byte) (k : MemOp → Parser) : Parsed :=
  match mm.toNat with
  | 0 => if iii = 6 then nextWord bs fun d rest => k (.absolute d) rest else k (.plain (Base.ofIndex iii)) bs
  | 1 => nextByte bs fun d rest => k (.disp8 (Base.ofIndex iii) d) rest
  | _ => nextWord bs fun d rest => k (.disp16 (Base.ofIndex iii) d) rest

/-- The `Eb` operand (R114, R116). -/
def nextRm8 (mm : BitVec 2) (iii : BitVec 3) (bs : List Byte) (k : Rm8 → Parser) : Parsed :=
  if mm = 3 then k (.reg (Reg8.ofIndex iii)) bs else nextMem mm iii bs fun m rest => k (.mem m) rest

/-- The `Ew` operand (R114, R116). -/
def nextRm16 (mm : BitVec 2) (iii : BitVec 3) (bs : List Byte) (k : Rm16 → Parser) : Parsed :=
  if mm = 3 then k (.reg (Reg16.ofIndex iii)) bs else nextMem mm iii bs fun m rest => k (.mem m) rest

/-- An instruction that has been read whole. -/
def op (i : Instr) : Parser := fun rest => .ok (i, rest)

/-- Formats `OP_I8` and `OP_REL8` (R123). -/
def opImm8 (k : Byte → Instr) : Parser := fun bs => nextByte bs fun b => op (k b)

/-- Formats `OP_I16`, `OP_REL16`, `OP_MOFFS` (R123). -/
def opImm16 (k : Word → Instr) : Parser := fun bs => nextWord bs fun w => op (k w)

/-- Format `OP_PTR`: offset first, then segment (R122). -/
def opPtr (k : Word → Word → Instr) : Parser := fun bs =>
  nextWord bs fun off rest => nextWord rest fun seg => op (k off seg)

/-- Format `OP_I16_I8`: ENTER (R122). -/
def opImm16Imm8 (k : Word → Byte → Instr) : Parser := fun bs =>
  nextWord bs fun w rest => nextByte rest fun b => op (k w b)

/-- `Eb` and `Gb` (R115). -/
def opRmReg8 (k : Rm8 → Reg8 → Instr) : Parser := fun bs =>
  nextModrm bs fun mm rrr iii rest => nextRm8 mm iii rest fun rm => op (k rm (Reg8.ofIndex rrr))

/-- `Ew` and `Gw` (R115). -/
def opRmReg16 (k : Rm16 → Reg16 → Instr) : Parser := fun bs =>
  nextModrm bs fun mm rrr iii rest => nextRm16 mm iii rest fun rm => op (k rm (Reg16.ofIndex rrr))

/-- `Ew` and `Sw`: all eight values of `RRR` are valid (R132). -/
def opRmSreg (k : Rm16 → BitVec 3 → Instr) : Parser := fun bs =>
  nextModrm bs fun mm rrr iii rest => nextRm16 mm iii rest fun rm => op (k rm rrr)

/-- `Gw, Ew, imm16` (R318). -/
def opRegRmImm16 (k : Reg16 → Rm16 → Word → Instr) : Parser := fun bs =>
  nextModrm bs fun mm rrr iii rest => nextRm16 mm iii rest fun rm rest' =>
    nextWord rest' fun w => op (k (Reg16.ofIndex rrr) rm w)

/-- `Gw, Ew, simm8` (R318). -/
def opRegRmImm8 (k : Reg16 → Rm16 → Byte → Instr) : Parser := fun bs =>
  nextModrm bs fun mm rrr iii rest => nextRm16 mm iii rest fun rm rest' =>
    nextByte rest' fun b => op (k (Reg16.ofIndex rrr) rm b)

/-- `Gw, M`: submode 3 is decided by the ModRM byte and is another row (R112, R418 (f)). -/
def opMem (k : Reg16 → MemOp → Instr) (bad : BitVec 3 → BitVec 3 → Instr) : Parser := fun bs =>
  nextModrm bs fun mm rrr iii rest =>
    if mm = 3 then op (bad rrr iii) rest
    else nextMem mm iii rest fun m => op (k (Reg16.ofIndex rrr) m)

/-- A group opcode: `RRR` selects the row (R115, R125 to R130). -/
def opGroup (table : Nat → SubParser) : Parser := fun bs =>
  nextModrm bs fun mm rrr iii rest => table rrr.toNat mm iii rest

def subRm8 (k : Rm8 → Instr) : SubParser := fun mm iii bs => nextRm8 mm iii bs fun rm => op (k rm)

def subRm16 (k : Rm16 → Instr) : SubParser := fun mm iii bs => nextRm16 mm iii bs fun rm => op (k rm)

def subRm8Imm8 (k : Rm8 → Byte → Instr) : SubParser := fun mm iii bs =>
  nextRm8 mm iii bs fun rm rest => nextByte rest fun b => op (k rm b)

def subRm16Imm8 (k : Rm16 → Byte → Instr) : SubParser := fun mm iii bs =>
  nextRm16 mm iii bs fun rm rest => nextByte rest fun b => op (k rm b)

def subRm16Imm16 (k : Rm16 → Word → Instr) : SubParser := fun mm iii bs =>
  nextRm16 mm iii bs fun rm rest => nextWord rest fun w => op (k rm w)

/-- A group member that needs memory (R129, R418 (f)). -/
def subMem (k : MemOp → Instr) (bad : BitVec 3 → Instr) : SubParser := fun mm iii bs =>
  if mm = 3 then op (bad iii) bs else nextMem mm iii bs fun m => op (k m)

/-- A reserved sub-opcode: neither displacement nor immediate is read (R112). -/
def subInvalid (k : BitVec 2 → BitVec 3 → Instr) : SubParser := fun mm iii bs => op (k mm iii) bs

/-- After 9B: three more 9B, or the first byte that is not (R135). -/
def opNrg : Parser := fun bs =>
  nextByte bs fun b1 r1 => if b1 ≠ 0x9B then op (.nrgBroken 0 b1) r1 else
  nextByte r1 fun b2 r2 => if b2 ≠ 0x9B then op (.nrgBroken 1 b2) r2 else
  nextByte r2 fun b3 r3 => if b3 ≠ 0x9B then op (.nrgBroken 2 b3) r3 else
  op .nrg r3

/-- After CD: the vector, three of which have rows of their own (R136). -/
def opInt : Parser := fun bs => nextByte bs fun n =>
  match n.toNat with
  | 0x86 => op .int86
  | 0x87 => op .int87
  | 0x88 => op .int88
  | _ => op (.intImm8 n)

/-- After a repeat prefix: exactly one more byte (R131). -/
def opRepeat (row : Byte → Instr) : Parser := fun bs => nextByte bs fun b => op (row b)

/-! ### The opcode map -/

/-- Opcode 80 by `RRR` (R125). -/
def group80 : Nat → SubParser
  | 0 => subRm8Imm8 .addEbImm8
  | 1 => subRm8Imm8 .orEbImm8
  | 2 => subRm8Imm8 .adcEbImm8
  | 3 => subRm8Imm8 .sbbEbImm8
  | 4 => subRm8Imm8 .andEbImm8
  | 5 => subRm8Imm8 .subEbImm8
  | 6 => subRm8Imm8 .xorEbImm8
  | _ => subRm8Imm8 .cmpEbImm8

/-- Opcode 81 by `RRR` (R125). -/
def group81 : Nat → SubParser
  | 0 => subRm16Imm16 .addEwImm16
  | 1 => subRm16Imm16 .orEwImm16
  | 2 => subRm16Imm16 .adcEwImm16
  | 3 => subRm16Imm16 .sbbEwImm16
  | 4 => subRm16Imm16 .andEwImm16
  | 5 => subRm16Imm16 .subEwImm16
  | 6 => subRm16Imm16 .xorEwImm16
  | _ => subRm16Imm16 .cmpEwImm16

/-- Opcode 83 by `RRR` (R125). -/
def group83 : Nat → SubParser
  | 0 => subRm16Imm8 .addEwSimm8
  | 1 => subRm16Imm8 .orEwSimm8
  | 2 => subRm16Imm8 .adcEwSimm8
  | 3 => subRm16Imm8 .sbbEwSimm8
  | 4 => subRm16Imm8 .andEwSimm8
  | 5 => subRm16Imm8 .subEwSimm8
  | 6 => subRm16Imm8 .xorEwSimm8
  | _ => subRm16Imm8 .cmpEwSimm8

/-- Opcode 8F by `RRR` (R130). -/
def group8F : Nat → SubParser
  | 0 => subRm16 .popEw
  | 1 => subInvalid .invalid8Fs1
  | 2 => subInvalid .invalid8Fs2
  | 3 => subInvalid .invalid8Fs3
  | 4 => subInvalid .invalid8Fs4
  | 5 => subInvalid .invalid8Fs5
  | 6 => subInvalid .invalid8Fs6
  | _ => subInvalid .invalid8Fs7

/-- Opcode C0 by `RRR` (R126). -/
def groupC0 : Nat → SubParser
  | 0 => subRm8Imm8 .rolEbImm8
  | 1 => subRm8Imm8 .rorEbImm8
  | 2 => subRm8Imm8 .rclEbImm8
  | 3 => subRm8Imm8 .rcrEbImm8
  | 4 => subRm8Imm8 .shlEbImm8
  | 5 => subRm8Imm8 .shrEbImm8
  | 6 => subInvalid .invalidC0s6
  | _ => subRm8Imm8 .sarEbImm8

/-- Opcode C1 by `RRR` (R126). -/
def groupC1 : Nat → SubParser
  | 0 => subRm16Imm8 .rolEwImm8
  | 1 => subRm16Imm8 .rorEwImm8
  | 2 => subRm16Imm8 .rclEwImm8
  | 3 => subRm16Imm8 .rcrEwImm8
  | 4 => subRm16Imm8 .shlEwImm8
  | 5 => subRm16Imm8 .shrEwImm8
  | 6 => subInvalid .invalidC1s6
  | _ => subRm16Imm8 .sarEwImm8

/-- Opcode C6 by `RRR` (R130). -/
def groupC6 : Nat → SubParser
  | 0 => subRm8Imm8 .movEbImm8
  | 1 => subInvalid .invalidC6s1
  | 2 => subInvalid .invalidC6s2
  | 3 => subInvalid .invalidC6s3
  | 4 => subInvalid .invalidC6s4
  | 5 => subInvalid .invalidC6s5
  | 6 => subInvalid .invalidC6s6
  | _ => subInvalid .invalidC6s7

/-- Opcode C7 by `RRR` (R130). -/
def groupC7 : Nat → SubParser
  | 0 => subRm16Imm16 .movEwImm16
  | 1 => subInvalid .invalidC7s1
  | 2 => subInvalid .invalidC7s2
  | 3 => subInvalid .invalidC7s3
  | 4 => subInvalid .invalidC7s4
  | 5 => subInvalid .invalidC7s5
  | 6 => subInvalid .invalidC7s6
  | _ => subInvalid .invalidC7s7

/-- Opcode D0 by `RRR` (R126). -/
def groupD0 : Nat → SubParser
  | 0 => subRm8 .rolEb1
  | 1 => subRm8 .rorEb1
  | 2 => subRm8 .rclEb1
  | 3 => subRm8 .rcrEb1
  | 4 => subRm8 .shlEb1
  | 5 => subRm8 .shrEb1
  | 6 => subInvalid .invalidD0s6
  | _ => subRm8 .sarEb1

/-- Opcode D1 by `RRR` (R126). -/
def groupD1 : Nat → SubParser
  | 0 => subRm16 .rolEw1
  | 1 => subRm16 .rorEw1
  | 2 => subRm16 .rclEw1
  | 3 => subRm16 .rcrEw1
  | 4 => subRm16 .shlEw1
  | 5 => subRm16 .shrEw1
  | 6 => subInvalid .invalidD1s6
  | _ => subRm16 .sarEw1

/-- Opcode D2 by `RRR` (R126). -/
def groupD2 : Nat → SubParser
  | 0 => subRm8 .rolEbCl
  | 1 => subRm8 .rorEbCl
  | 2 => subRm8 .rclEbCl
  | 3 => subRm8 .rcrEbCl
  | 4 => subRm8 .shlEbCl
  | 5 => subRm8 .shrEbCl
  | 6 => subInvalid .invalidD2s6
  | _ => subRm8 .sarEbCl

/-- Opcode D3 by `RRR` (R126). -/
def groupD3 : Nat → SubParser
  | 0 => subRm16 .rolEwCl
  | 1 => subRm16 .rorEwCl
  | 2 => subRm16 .rclEwCl
  | 3 => subRm16 .rcrEwCl
  | 4 => subRm16 .shlEwCl
  | 5 => subRm16 .shrEwCl
  | 6 => subInvalid .invalidD3s6
  | _ => subRm16 .sarEwCl

/-- Opcode F6 by `RRR` (R127). -/
def groupF6 : Nat → SubParser
  | 0 => subRm8Imm8 .testEbImm8
  | 1 => subInvalid .invalidF6s1
  | 2 => subRm8 .notEb
  | 3 => subRm8 .negEb
  | 4 => subRm8 .mulEb
  | 5 => subRm8 .imulEb
  | 6 => subRm8 .divEb
  | _ => subRm8 .idivEb

/-- Opcode F7 by `RRR` (R127). -/
def groupF7 : Nat → SubParser
  | 0 => subRm16Imm16 .testEwImm16
  | 1 => subInvalid .invalidF7s1
  | 2 => subRm16 .notEw
  | 3 => subRm16 .negEw
  | 4 => subRm16 .mulEw
  | 5 => subRm16 .imulEw
  | 6 => subRm16 .divEw
  | _ => subRm16 .idivEw

/-- Opcode FE by `RRR` (R128). -/
def groupFE : Nat → SubParser
  | 0 => subRm8 .incEb
  | 1 => subRm8 .decEb
  | 2 => subInvalid .invalidFEs2
  | 3 => subInvalid .invalidFEs3
  | 4 => subInvalid .invalidFEs4
  | 5 => subInvalid .invalidFEs5
  | 6 => subInvalid .invalidFEs6
  | _ => subInvalid .invalidFEs7

/-- Opcode FF by `RRR` (R129). -/
def groupFF : Nat → SubParser
  | 0 => subRm16 .incEw
  | 1 => subRm16 .decEw
  | 2 => subRm16 .callEw
  | 3 => subMem .callFarM .callFarRegister
  | 4 => subRm16 .jmpEw
  | 5 => subMem .jmpFarM .jmpFarRegister
  | 6 => subRm16 .pushEw
  | _ => subInvalid .invalidFFs7

/-- The string opcodes after the prefix F3 (R131, R297). -/
def repRow (b : Byte) : Instr :=
  match b.toNat with
  | 0xA4 => .repMovsb
  | 0xA5 => .repMovsw
  | 0xA6 => .repzCmpsb
  | 0xA7 => .repzCmpsw
  | 0xAA => .repStosb
  | 0xAB => .repStosw
  | 0xAC => .repLodsb
  | 0xAD => .repLodsw
  | 0xAE => .repzScasb
  | 0xAF => .repzScasw
  | _ => .repBroken b

/-- The string opcodes after the prefix F2 (R131, R297). -/
def repnzRow (b : Byte) : Instr :=
  match b.toNat with
  | 0xA4 => .repnzMovsb
  | 0xA5 => .repnzMovsw
  | 0xA6 => .repnzCmpsb
  | 0xA7 => .repnzCmpsw
  | 0xAA => .repnzStosb
  | 0xAB => .repnzStosw
  | 0xAC => .repnzLodsb
  | 0xAD => .repnzLodsw
  | 0xAE => .repnzScasb
  | 0xAF => .repnzScasw
  | _ => .repnzBroken b

/-- Opcodes 00 to 0F (R124). -/
def opcodeRow0 : Nat → Parser
  | 0 => opRmReg8 .addEbGb
  | 1 => opRmReg16 .addEwGw
  | 2 => opRmReg8 fun rm r => .addGbEb r rm
  | 3 => opRmReg16 fun rm r => .addGwEw r rm
  | 4 => opImm8 .addAlImm8
  | 5 => opImm16 .addAxImm16
  | 6 => op .pushEs
  | 7 => op .popEs
  | 8 => opRmReg8 .orEbGb
  | 9 => opRmReg16 .orEwGw
  | 10 => opRmReg8 fun rm r => .orGbEb r rm
  | 11 => opRmReg16 fun rm r => .orGwEw r rm
  | 12 => opImm8 .orAlImm8
  | 13 => opImm16 .orAxImm16
  | 14 => op .pushCs
  | _ => op .invalid0F

/-- Opcodes 10 to 1F (R124). -/
def opcodeRow1 : Nat → Parser
  | 0 => opRmReg8 .adcEbGb
  | 1 => opRmReg16 .adcEwGw
  | 2 => opRmReg8 fun rm r => .adcGbEb r rm
  | 3 => opRmReg16 fun rm r => .adcGwEw r rm
  | 4 => opImm8 .adcAlImm8
  | 5 => opImm16 .adcAxImm16
  | 6 => op .pushSs
  | 7 => op .popSs
  | 8 => opRmReg8 .sbbEbGb
  | 9 => opRmReg16 .sbbEwGw
  | 10 => opRmReg8 fun rm r => .sbbGbEb r rm
  | 11 => opRmReg16 fun rm r => .sbbGwEw r rm
  | 12 => opImm8 .sbbAlImm8
  | 13 => opImm16 .sbbAxImm16
  | 14 => op .pushDs
  | _ => op .popDs

/-- Opcodes 20 to 2F (R124). -/
def opcodeRow2 : Nat → Parser
  | 0 => opRmReg8 .andEbGb
  | 1 => opRmReg16 .andEwGw
  | 2 => opRmReg8 fun rm r => .andGbEb r rm
  | 3 => opRmReg16 fun rm r => .andGwEw r rm
  | 4 => opImm8 .andAlImm8
  | 5 => opImm16 .andAxImm16
  | 6 => op .esOverride
  | 7 => op .daa
  | 8 => opRmReg8 .subEbGb
  | 9 => opRmReg16 .subEwGw
  | 10 => opRmReg8 fun rm r => .subGbEb r rm
  | 11 => opRmReg16 fun rm r => .subGwEw r rm
  | 12 => opImm8 .subAlImm8
  | 13 => opImm16 .subAxImm16
  | 14 => op .csOverride
  | _ => op .das

/-- Opcodes 30 to 3F (R124). -/
def opcodeRow3 : Nat → Parser
  | 0 => opRmReg8 .xorEbGb
  | 1 => opRmReg16 .xorEwGw
  | 2 => opRmReg8 fun rm r => .xorGbEb r rm
  | 3 => opRmReg16 fun rm r => .xorGwEw r rm
  | 4 => opImm8 .xorAlImm8
  | 5 => opImm16 .xorAxImm16
  | 6 => op .ssOverride
  | 7 => op .aaa
  | 8 => opRmReg8 .cmpEbGb
  | 9 => opRmReg16 .cmpEwGw
  | 10 => opRmReg8 fun rm r => .cmpGbEb r rm
  | 11 => opRmReg16 fun rm r => .cmpGwEw r rm
  | 12 => opImm8 .cmpAlImm8
  | 13 => opImm16 .cmpAxImm16
  | 14 => op .dsOverride
  | _ => op .aas

/-- Opcodes 40 to 4F (R124). -/
def opcodeRow4 : Nat → Parser
  | 0 => op (.incReg16 .AX)
  | 1 => op (.incReg16 .CX)
  | 2 => op (.incReg16 .DX)
  | 3 => op (.incReg16 .BX)
  | 4 => op (.incReg16 .SP)
  | 5 => op (.incReg16 .BP)
  | 6 => op (.incReg16 .SI)
  | 7 => op (.incReg16 .DI)
  | 8 => op (.decReg16 .AX)
  | 9 => op (.decReg16 .CX)
  | 10 => op (.decReg16 .DX)
  | 11 => op (.decReg16 .BX)
  | 12 => op (.decReg16 .SP)
  | 13 => op (.decReg16 .BP)
  | 14 => op (.decReg16 .SI)
  | _ => op (.decReg16 .DI)

/-- Opcodes 50 to 5F (R124). -/
def opcodeRow5 : Nat → Parser
  | 0 => op (.pushReg16 .AX)
  | 1 => op (.pushReg16 .CX)
  | 2 => op (.pushReg16 .DX)
  | 3 => op (.pushReg16 .BX)
  | 4 => op (.pushReg16 .SP)
  | 5 => op (.pushReg16 .BP)
  | 6 => op (.pushReg16 .SI)
  | 7 => op (.pushReg16 .DI)
  | 8 => op (.popReg16 .AX)
  | 9 => op (.popReg16 .CX)
  | 10 => op (.popReg16 .DX)
  | 11 => op (.popReg16 .BX)
  | 12 => op (.popReg16 .SP)
  | 13 => op (.popReg16 .BP)
  | 14 => op (.popReg16 .SI)
  | _ => op (.popReg16 .DI)

/-- Opcodes 60 to 6F (R124). -/
def opcodeRow6 : Nat → Parser
  | 0 => op .pusha
  | 1 => op .popa
  | 2 => op .bound
  | 3 => op .invalid63
  | 4 => op .invalid64
  | 5 => op .invalid65
  | 6 => op .invalid66
  | 7 => op .invalid67
  | 8 => opImm16 .pushImm16
  | 9 => opRegRmImm16 .imulGwEwImm16
  | 10 => opImm8 .pushSimm8
  | 11 => opRegRmImm8 .imulGwEwSimm8
  | 12 => op .insb
  | 13 => op .insw
  | 14 => op .outsb
  | _ => op .outsw

/-- Opcodes 70 to 7F (R124). -/
def opcodeRow7 : Nat → Parser
  | 0 => opImm8 .joRel8
  | 1 => opImm8 .jnoRel8
  | 2 => opImm8 .jbRel8
  | 3 => opImm8 .jnbRel8
  | 4 => opImm8 .jzRel8
  | 5 => opImm8 .jnzRel8
  | 6 => opImm8 .jbeRel8
  | 7 => opImm8 .jaRel8
  | 8 => opImm8 .jsRel8
  | 9 => opImm8 .jnsRel8
  | 10 => opImm8 .jpRel8
  | 11 => opImm8 .jnpRel8
  | 12 => opImm8 .jlRel8
  | 13 => opImm8 .jgeRel8
  | 14 => opImm8 .jleRel8
  | _ => opImm8 .jgRel8

/-- Opcodes 80 to 8F (R124). -/
def opcodeRow8 : Nat → Parser
  | 0 => opGroup group80
  | 1 => opGroup group81
  | 2 => op .invalid82
  | 3 => opGroup group83
  | 4 => opRmReg8 .testEbGb
  | 5 => opRmReg16 .testEwGw
  | 6 => opRmReg8 fun rm r => .xchgGbEb r rm
  | 7 => opRmReg16 fun rm r => .xchgGwEw r rm
  | 8 => opRmReg8 .movEbGb
  | 9 => opRmReg16 .movEwGw
  | 10 => opRmReg8 fun rm r => .movGbEb r rm
  | 11 => opRmReg16 fun rm r => .movGwEw r rm
  | 12 => opRmSreg .movEwSw
  | 13 => opMem .leaGwM .leaRegister
  | 14 => opRmSreg fun rm sr => .movSwEw sr rm
  | _ => opGroup group8F

/-- Opcodes 90 to 9F (R124). -/
def opcodeRow9 : Nat → Parser
  | 0 => op .nop
  | 1 => op (.xchgAxReg16 .CX)
  | 2 => op (.xchgAxReg16 .DX)
  | 3 => op (.xchgAxReg16 .BX)
  | 4 => op (.xchgAxReg16 .SP)
  | 5 => op (.xchgAxReg16 .BP)
  | 6 => op (.xchgAxReg16 .SI)
  | 7 => op (.xchgAxReg16 .DI)
  | 8 => op .cbw
  | 9 => op .cwd
  | 10 => opPtr .callPtr1616
  | 11 => opNrg
  | 12 => op .pushf
  | 13 => op .popf
  | 14 => op .sahf
  | _ => op .lahf

/-- Opcodes A0 to AF (R124). -/
def opcodeRowA : Nat → Parser
  | 0 => opImm16 .movAlMoffs16
  | 1 => opImm16 .movAxMoffs16
  | 2 => opImm16 .movMoffs16Al
  | 3 => opImm16 .movMoffs16Ax
  | 4 => op .movsb
  | 5 => op .movsw
  | 6 => op .cmpsb
  | 7 => op .cmpsw
  | 8 => opImm8 .testAlImm8
  | 9 => opImm16 .testAxImm16
  | 10 => op .stosb
  | 11 => op .stosw
  | 12 => op .lodsb
  | 13 => op .lodsw
  | 14 => op .scasb
  | _ => op .scasw

/-- Opcodes B0 to BF (R124). -/
def opcodeRowB : Nat → Parser
  | 0 => opImm8 (.movReg8Imm8 .AL)
  | 1 => opImm8 (.movReg8Imm8 .CL)
  | 2 => opImm8 (.movReg8Imm8 .DL)
  | 3 => opImm8 (.movReg8Imm8 .BL)
  | 4 => opImm8 (.movReg8Imm8 .AH)
  | 5 => opImm8 (.movReg8Imm8 .CH)
  | 6 => opImm8 (.movReg8Imm8 .DH)
  | 7 => opImm8 (.movReg8Imm8 .BH)
  | 8 => opImm16 (.movReg16Imm16 .AX)
  | 9 => opImm16 (.movReg16Imm16 .CX)
  | 10 => opImm16 (.movReg16Imm16 .DX)
  | 11 => opImm16 (.movReg16Imm16 .BX)
  | 12 => opImm16 (.movReg16Imm16 .SP)
  | 13 => opImm16 (.movReg16Imm16 .BP)
  | 14 => opImm16 (.movReg16Imm16 .SI)
  | _ => opImm16 (.movReg16Imm16 .DI)

/-- Opcodes C0 to CF (R124). -/
def opcodeRowC : Nat → Parser
  | 0 => opGroup groupC0
  | 1 => opGroup groupC1
  | 2 => opImm16 .retImm16
  | 3 => op .ret
  | 4 => opMem .lesGwM .lesRegister
  | 5 => opMem .ldsGwM .ldsRegister
  | 6 => opGroup groupC6
  | 7 => opGroup groupC7
  | 8 => opImm16Imm8 .enterImm16Imm8
  | 9 => op .leave
  | 10 => opImm16 .retfImm16
  | 11 => op .retf
  | 12 => op .int3
  | 13 => opInt
  | 14 => op .into
  | _ => op .iret

/-- Opcodes D0 to DF (R124). -/
def opcodeRowD : Nat → Parser
  | 0 => opGroup groupD0
  | 1 => opGroup groupD1
  | 2 => opGroup groupD2
  | 3 => opGroup groupD3
  | 4 => op .aam
  | 5 => op .aad
  | 6 => op .invalidD6
  | 7 => op .xlat
  | 8 => op (.esc 0)
  | 9 => op (.esc 1)
  | 10 => op (.esc 2)
  | 11 => op (.esc 3)
  | 12 => op (.esc 4)
  | 13 => op (.esc 5)
  | 14 => op (.esc 6)
  | _ => op (.esc 7)

/-- Opcodes E0 to EF (R124). -/
def opcodeRowE : Nat → Parser
  | 0 => opImm8 .loopnzRel8
  | 1 => opImm8 .loopzRel8
  | 2 => opImm8 .loopRel8
  | 3 => opImm8 .jcxzRel8
  | 4 => op .inAlImm8
  | 5 => op .inAxImm8
  | 6 => op .outImm8Al
  | 7 => op .outImm8Ax
  | 8 => opImm16 .callRel16
  | 9 => opImm16 .jmpRel16
  | 10 => opPtr .jmpPtr1616
  | 11 => opImm8 .jmpRel8
  | 12 => op .inAlDx
  | 13 => op .inAxDx
  | 14 => op .outDxAl
  | _ => op .outDxAx

/-- Opcodes F0 to FF (R124). -/
def opcodeRowF : Nat → Parser
  | 0 => op .lock
  | 1 => op .invalidF1
  | 2 => opRepeat repnzRow
  | 3 => opRepeat repRow
  | 4 => op .hlt
  | 5 => op .cmc
  | 6 => opGroup groupF6
  | 7 => opGroup groupF7
  | 8 => op .clc
  | 9 => op .stc
  | 10 => op .cli
  | 11 => op .sti
  | 12 => op .cld
  | 13 => op .std
  | 14 => opGroup groupFE
  | _ => opGroup groupFF

/-- The opcode map by its first byte (R124). -/
def opcodeRow : Nat → Nat → Parser
  | 0 => opcodeRow0
  | 1 => opcodeRow1
  | 2 => opcodeRow2
  | 3 => opcodeRow3
  | 4 => opcodeRow4
  | 5 => opcodeRow5
  | 6 => opcodeRow6
  | 7 => opcodeRow7
  | 8 => opcodeRow8
  | 9 => opcodeRow9
  | 10 => opcodeRowA
  | 11 => opcodeRowB
  | 12 => opcodeRowC
  | 13 => opcodeRowD
  | 14 => opcodeRowE
  | _ => opcodeRowF

/-- The instruction at the head of a byte string, and the bytes after it (R111). Total: every byte string that is
long enough begins an instruction (R133: "Every one of the 256 first bytes is thus accounted for"). -/
def decode : Parser
  | [] => .error .truncated
  | b :: rest => opcodeRow (b.toNat / 16) (b.toNat % 16) rest

/-! ### The encoder -/

/-- The bytes of an instruction, in stream order, from the same tables (R110 to R131). -/
def encode : Instr → List Byte
  | .addEbGb rm r => 0x00 :: rm.bytes r.index
  | .addEwGw rm r => 0x01 :: rm.bytes r.index
  | .addGbEb r rm => 0x02 :: rm.bytes r.index
  | .addGwEw r rm => 0x03 :: rm.bytes r.index
  | .addAlImm8 imm => [0x04, imm]
  | .addAxImm16 imm => 0x05 :: wordBytes imm
  | .orEbGb rm r => 0x08 :: rm.bytes r.index
  | .orEwGw rm r => 0x09 :: rm.bytes r.index
  | .orGbEb r rm => 0x0A :: rm.bytes r.index
  | .orGwEw r rm => 0x0B :: rm.bytes r.index
  | .orAlImm8 imm => [0x0C, imm]
  | .orAxImm16 imm => 0x0D :: wordBytes imm
  | .adcEbGb rm r => 0x10 :: rm.bytes r.index
  | .adcEwGw rm r => 0x11 :: rm.bytes r.index
  | .adcGbEb r rm => 0x12 :: rm.bytes r.index
  | .adcGwEw r rm => 0x13 :: rm.bytes r.index
  | .adcAlImm8 imm => [0x14, imm]
  | .adcAxImm16 imm => 0x15 :: wordBytes imm
  | .sbbEbGb rm r => 0x18 :: rm.bytes r.index
  | .sbbEwGw rm r => 0x19 :: rm.bytes r.index
  | .sbbGbEb r rm => 0x1A :: rm.bytes r.index
  | .sbbGwEw r rm => 0x1B :: rm.bytes r.index
  | .sbbAlImm8 imm => [0x1C, imm]
  | .sbbAxImm16 imm => 0x1D :: wordBytes imm
  | .andEbGb rm r => 0x20 :: rm.bytes r.index
  | .andEwGw rm r => 0x21 :: rm.bytes r.index
  | .andGbEb r rm => 0x22 :: rm.bytes r.index
  | .andGwEw r rm => 0x23 :: rm.bytes r.index
  | .andAlImm8 imm => [0x24, imm]
  | .andAxImm16 imm => 0x25 :: wordBytes imm
  | .subEbGb rm r => 0x28 :: rm.bytes r.index
  | .subEwGw rm r => 0x29 :: rm.bytes r.index
  | .subGbEb r rm => 0x2A :: rm.bytes r.index
  | .subGwEw r rm => 0x2B :: rm.bytes r.index
  | .subAlImm8 imm => [0x2C, imm]
  | .subAxImm16 imm => 0x2D :: wordBytes imm
  | .xorEbGb rm r => 0x30 :: rm.bytes r.index
  | .xorEwGw rm r => 0x31 :: rm.bytes r.index
  | .xorGbEb r rm => 0x32 :: rm.bytes r.index
  | .xorGwEw r rm => 0x33 :: rm.bytes r.index
  | .xorAlImm8 imm => [0x34, imm]
  | .xorAxImm16 imm => 0x35 :: wordBytes imm
  | .cmpEbGb rm r => 0x38 :: rm.bytes r.index
  | .cmpEwGw rm r => 0x39 :: rm.bytes r.index
  | .cmpGbEb r rm => 0x3A :: rm.bytes r.index
  | .cmpGwEw r rm => 0x3B :: rm.bytes r.index
  | .cmpAlImm8 imm => [0x3C, imm]
  | .cmpAxImm16 imm => 0x3D :: wordBytes imm
  | .incReg16 r => [0x40 ||| r.index.setWidth 8]
  | .decReg16 r => [0x48 ||| r.index.setWidth 8]
  | .pushReg16 r => [0x50 ||| r.index.setWidth 8]
  | .popReg16 r => [0x58 ||| r.index.setWidth 8]
  | .pushImm16 imm => 0x68 :: wordBytes imm
  | .imulGwEwImm16 r rm imm => 0x69 :: rm.bytes r.index ++ wordBytes imm
  | .pushSimm8 imm => [0x6A, imm]
  | .imulGwEwSimm8 r rm imm => 0x6B :: rm.bytes r.index ++ [imm]
  | .joRel8 rel => [0x70, rel]
  | .jnoRel8 rel => [0x71, rel]
  | .jbRel8 rel => [0x72, rel]
  | .jnbRel8 rel => [0x73, rel]
  | .jzRel8 rel => [0x74, rel]
  | .jnzRel8 rel => [0x75, rel]
  | .jbeRel8 rel => [0x76, rel]
  | .jaRel8 rel => [0x77, rel]
  | .jsRel8 rel => [0x78, rel]
  | .jnsRel8 rel => [0x79, rel]
  | .jpRel8 rel => [0x7A, rel]
  | .jnpRel8 rel => [0x7B, rel]
  | .jlRel8 rel => [0x7C, rel]
  | .jgeRel8 rel => [0x7D, rel]
  | .jleRel8 rel => [0x7E, rel]
  | .jgRel8 rel => [0x7F, rel]
  | .addEbImm8 rm imm => 0x80 :: rm.bytes 0 ++ [imm]
  | .orEbImm8 rm imm => 0x80 :: rm.bytes 1 ++ [imm]
  | .adcEbImm8 rm imm => 0x80 :: rm.bytes 2 ++ [imm]
  | .sbbEbImm8 rm imm => 0x80 :: rm.bytes 3 ++ [imm]
  | .andEbImm8 rm imm => 0x80 :: rm.bytes 4 ++ [imm]
  | .subEbImm8 rm imm => 0x80 :: rm.bytes 5 ++ [imm]
  | .xorEbImm8 rm imm => 0x80 :: rm.bytes 6 ++ [imm]
  | .cmpEbImm8 rm imm => 0x80 :: rm.bytes 7 ++ [imm]
  | .addEwImm16 rm imm => 0x81 :: rm.bytes 0 ++ wordBytes imm
  | .orEwImm16 rm imm => 0x81 :: rm.bytes 1 ++ wordBytes imm
  | .adcEwImm16 rm imm => 0x81 :: rm.bytes 2 ++ wordBytes imm
  | .sbbEwImm16 rm imm => 0x81 :: rm.bytes 3 ++ wordBytes imm
  | .andEwImm16 rm imm => 0x81 :: rm.bytes 4 ++ wordBytes imm
  | .subEwImm16 rm imm => 0x81 :: rm.bytes 5 ++ wordBytes imm
  | .xorEwImm16 rm imm => 0x81 :: rm.bytes 6 ++ wordBytes imm
  | .cmpEwImm16 rm imm => 0x81 :: rm.bytes 7 ++ wordBytes imm
  | .addEwSimm8 rm imm => 0x83 :: rm.bytes 0 ++ [imm]
  | .orEwSimm8 rm imm => 0x83 :: rm.bytes 1 ++ [imm]
  | .adcEwSimm8 rm imm => 0x83 :: rm.bytes 2 ++ [imm]
  | .sbbEwSimm8 rm imm => 0x83 :: rm.bytes 3 ++ [imm]
  | .andEwSimm8 rm imm => 0x83 :: rm.bytes 4 ++ [imm]
  | .subEwSimm8 rm imm => 0x83 :: rm.bytes 5 ++ [imm]
  | .xorEwSimm8 rm imm => 0x83 :: rm.bytes 6 ++ [imm]
  | .cmpEwSimm8 rm imm => 0x83 :: rm.bytes 7 ++ [imm]
  | .testEbGb rm r => 0x84 :: rm.bytes r.index
  | .testEwGw rm r => 0x85 :: rm.bytes r.index
  | .xchgGbEb r rm => 0x86 :: rm.bytes r.index
  | .xchgGwEw r rm => 0x87 :: rm.bytes r.index
  | .movEbGb rm r => 0x88 :: rm.bytes r.index
  | .movEwGw rm r => 0x89 :: rm.bytes r.index
  | .movGbEb r rm => 0x8A :: rm.bytes r.index
  | .movGwEw r rm => 0x8B :: rm.bytes r.index
  | .movEwSw rm sr => 0x8C :: rm.bytes sr
  | .leaGwM r m => 0x8D :: m.bytes r.index
  | .leaRegister rrr iii => [0x8D, modrmByte 3 rrr iii]
  | .movSwEw sr rm => 0x8E :: rm.bytes sr
  | .popEw rm => 0x8F :: rm.bytes 0
  | .invalid8Fs1 mm iii => [0x8F, modrmByte mm 1 iii]
  | .invalid8Fs2 mm iii => [0x8F, modrmByte mm 2 iii]
  | .invalid8Fs3 mm iii => [0x8F, modrmByte mm 3 iii]
  | .invalid8Fs4 mm iii => [0x8F, modrmByte mm 4 iii]
  | .invalid8Fs5 mm iii => [0x8F, modrmByte mm 5 iii]
  | .invalid8Fs6 mm iii => [0x8F, modrmByte mm 6 iii]
  | .invalid8Fs7 mm iii => [0x8F, modrmByte mm 7 iii]
  | .xchgAxReg16 r => [0x90 ||| r.index.setWidth 8]
  | .callPtr1616 off seg => 0x9A :: wordBytes off ++ wordBytes seg
  | .nrgBroken good b => 0x9B :: List.replicate good.val 0x9B ++ [b]
  | .movAlMoffs16 moffs => 0xA0 :: wordBytes moffs
  | .movAxMoffs16 moffs => 0xA1 :: wordBytes moffs
  | .movMoffs16Al moffs => 0xA2 :: wordBytes moffs
  | .movMoffs16Ax moffs => 0xA3 :: wordBytes moffs
  | .testAlImm8 imm => [0xA8, imm]
  | .testAxImm16 imm => 0xA9 :: wordBytes imm
  | .movReg8Imm8 r imm => [0xB0 ||| r.index.setWidth 8, imm]
  | .movReg16Imm16 r imm => (0xB8 ||| r.index.setWidth 8) :: wordBytes imm
  | .rolEbImm8 rm imm => 0xC0 :: rm.bytes 0 ++ [imm]
  | .rorEbImm8 rm imm => 0xC0 :: rm.bytes 1 ++ [imm]
  | .rclEbImm8 rm imm => 0xC0 :: rm.bytes 2 ++ [imm]
  | .rcrEbImm8 rm imm => 0xC0 :: rm.bytes 3 ++ [imm]
  | .shlEbImm8 rm imm => 0xC0 :: rm.bytes 4 ++ [imm]
  | .shrEbImm8 rm imm => 0xC0 :: rm.bytes 5 ++ [imm]
  | .invalidC0s6 mm iii => [0xC0, modrmByte mm 6 iii]
  | .sarEbImm8 rm imm => 0xC0 :: rm.bytes 7 ++ [imm]
  | .rolEwImm8 rm imm => 0xC1 :: rm.bytes 0 ++ [imm]
  | .rorEwImm8 rm imm => 0xC1 :: rm.bytes 1 ++ [imm]
  | .rclEwImm8 rm imm => 0xC1 :: rm.bytes 2 ++ [imm]
  | .rcrEwImm8 rm imm => 0xC1 :: rm.bytes 3 ++ [imm]
  | .shlEwImm8 rm imm => 0xC1 :: rm.bytes 4 ++ [imm]
  | .shrEwImm8 rm imm => 0xC1 :: rm.bytes 5 ++ [imm]
  | .invalidC1s6 mm iii => [0xC1, modrmByte mm 6 iii]
  | .sarEwImm8 rm imm => 0xC1 :: rm.bytes 7 ++ [imm]
  | .rolEb1 rm => 0xD0 :: rm.bytes 0
  | .rorEb1 rm => 0xD0 :: rm.bytes 1
  | .rclEb1 rm => 0xD0 :: rm.bytes 2
  | .rcrEb1 rm => 0xD0 :: rm.bytes 3
  | .shlEb1 rm => 0xD0 :: rm.bytes 4
  | .shrEb1 rm => 0xD0 :: rm.bytes 5
  | .invalidD0s6 mm iii => [0xD0, modrmByte mm 6 iii]
  | .sarEb1 rm => 0xD0 :: rm.bytes 7
  | .rolEw1 rm => 0xD1 :: rm.bytes 0
  | .rorEw1 rm => 0xD1 :: rm.bytes 1
  | .rclEw1 rm => 0xD1 :: rm.bytes 2
  | .rcrEw1 rm => 0xD1 :: rm.bytes 3
  | .shlEw1 rm => 0xD1 :: rm.bytes 4
  | .shrEw1 rm => 0xD1 :: rm.bytes 5
  | .invalidD1s6 mm iii => [0xD1, modrmByte mm 6 iii]
  | .sarEw1 rm => 0xD1 :: rm.bytes 7
  | .rolEbCl rm => 0xD2 :: rm.bytes 0
  | .rorEbCl rm => 0xD2 :: rm.bytes 1
  | .rclEbCl rm => 0xD2 :: rm.bytes 2
  | .rcrEbCl rm => 0xD2 :: rm.bytes 3
  | .shlEbCl rm => 0xD2 :: rm.bytes 4
  | .shrEbCl rm => 0xD2 :: rm.bytes 5
  | .invalidD2s6 mm iii => [0xD2, modrmByte mm 6 iii]
  | .sarEbCl rm => 0xD2 :: rm.bytes 7
  | .rolEwCl rm => 0xD3 :: rm.bytes 0
  | .rorEwCl rm => 0xD3 :: rm.bytes 1
  | .rclEwCl rm => 0xD3 :: rm.bytes 2
  | .rcrEwCl rm => 0xD3 :: rm.bytes 3
  | .shlEwCl rm => 0xD3 :: rm.bytes 4
  | .shrEwCl rm => 0xD3 :: rm.bytes 5
  | .invalidD3s6 mm iii => [0xD3, modrmByte mm 6 iii]
  | .sarEwCl rm => 0xD3 :: rm.bytes 7
  | .retImm16 imm => 0xC2 :: wordBytes imm
  | .lesGwM r m => 0xC4 :: m.bytes r.index
  | .lesRegister rrr iii => [0xC4, modrmByte 3 rrr iii]
  | .ldsGwM r m => 0xC5 :: m.bytes r.index
  | .ldsRegister rrr iii => [0xC5, modrmByte 3 rrr iii]
  | .movEbImm8 rm imm => 0xC6 :: rm.bytes 0 ++ [imm]
  | .movEwImm16 rm imm => 0xC7 :: rm.bytes 0 ++ wordBytes imm
  | .invalidC6s1 mm iii => [0xC6, modrmByte mm 1 iii]
  | .invalidC6s2 mm iii => [0xC6, modrmByte mm 2 iii]
  | .invalidC6s3 mm iii => [0xC6, modrmByte mm 3 iii]
  | .invalidC6s4 mm iii => [0xC6, modrmByte mm 4 iii]
  | .invalidC6s5 mm iii => [0xC6, modrmByte mm 5 iii]
  | .invalidC6s6 mm iii => [0xC6, modrmByte mm 6 iii]
  | .invalidC6s7 mm iii => [0xC6, modrmByte mm 7 iii]
  | .invalidC7s1 mm iii => [0xC7, modrmByte mm 1 iii]
  | .invalidC7s2 mm iii => [0xC7, modrmByte mm 2 iii]
  | .invalidC7s3 mm iii => [0xC7, modrmByte mm 3 iii]
  | .invalidC7s4 mm iii => [0xC7, modrmByte mm 4 iii]
  | .invalidC7s5 mm iii => [0xC7, modrmByte mm 5 iii]
  | .invalidC7s6 mm iii => [0xC7, modrmByte mm 6 iii]
  | .invalidC7s7 mm iii => [0xC7, modrmByte mm 7 iii]
  | .enterImm16Imm8 size level => 0xC8 :: wordBytes size ++ [level]
  | .retfImm16 imm => 0xCA :: wordBytes imm
  | .intImm8 imm => [0xCD, imm]
  | .esc n => [0xD8 ||| n.setWidth 8]
  | .loopnzRel8 rel => [0xE0, rel]
  | .loopzRel8 rel => [0xE1, rel]
  | .loopRel8 rel => [0xE2, rel]
  | .jcxzRel8 rel => [0xE3, rel]
  | .callRel16 rel => 0xE8 :: wordBytes rel
  | .jmpRel16 rel => 0xE9 :: wordBytes rel
  | .jmpPtr1616 off seg => 0xEA :: wordBytes off ++ wordBytes seg
  | .jmpRel8 rel => [0xEB, rel]
  | .repnzBroken b => [0xF2, b]
  | .repBroken b => [0xF3, b]
  | .testEbImm8 rm imm => 0xF6 :: rm.bytes 0 ++ [imm]
  | .invalidF6s1 mm iii => [0xF6, modrmByte mm 1 iii]
  | .notEb rm => 0xF6 :: rm.bytes 2
  | .negEb rm => 0xF6 :: rm.bytes 3
  | .mulEb rm => 0xF6 :: rm.bytes 4
  | .imulEb rm => 0xF6 :: rm.bytes 5
  | .divEb rm => 0xF6 :: rm.bytes 6
  | .idivEb rm => 0xF6 :: rm.bytes 7
  | .testEwImm16 rm imm => 0xF7 :: rm.bytes 0 ++ wordBytes imm
  | .invalidF7s1 mm iii => [0xF7, modrmByte mm 1 iii]
  | .notEw rm => 0xF7 :: rm.bytes 2
  | .negEw rm => 0xF7 :: rm.bytes 3
  | .mulEw rm => 0xF7 :: rm.bytes 4
  | .imulEw rm => 0xF7 :: rm.bytes 5
  | .divEw rm => 0xF7 :: rm.bytes 6
  | .idivEw rm => 0xF7 :: rm.bytes 7
  | .incEb rm => 0xFE :: rm.bytes 0
  | .decEb rm => 0xFE :: rm.bytes 1
  | .invalidFEs2 mm iii => [0xFE, modrmByte mm 2 iii]
  | .invalidFEs3 mm iii => [0xFE, modrmByte mm 3 iii]
  | .invalidFEs4 mm iii => [0xFE, modrmByte mm 4 iii]
  | .invalidFEs5 mm iii => [0xFE, modrmByte mm 5 iii]
  | .invalidFEs6 mm iii => [0xFE, modrmByte mm 6 iii]
  | .invalidFEs7 mm iii => [0xFE, modrmByte mm 7 iii]
  | .incEw rm => 0xFF :: rm.bytes 0
  | .decEw rm => 0xFF :: rm.bytes 1
  | .callEw rm => 0xFF :: rm.bytes 2
  | .callFarM m => 0xFF :: m.bytes 3
  | .jmpEw rm => 0xFF :: rm.bytes 4
  | .jmpFarM m => 0xFF :: m.bytes 5
  | .pushEw rm => 0xFF :: rm.bytes 6
  | .invalidFFs7 mm iii => [0xFF, modrmByte mm 7 iii]
  | .callFarRegister iii => [0xFF, modrmByte 3 3 iii]
  | .jmpFarRegister iii => [0xFF, modrmByte 3 5 iii]
  | .pushEs => [0x06]
  | .pushCs => [0x0E]
  | .pushSs => [0x16]
  | .pushDs => [0x1E]
  | .popEs => [0x07]
  | .popSs => [0x17]
  | .popDs => [0x1F]
  | .invalid0F => [0x0F]
  | .esOverride => [0x26]
  | .csOverride => [0x2E]
  | .ssOverride => [0x36]
  | .dsOverride => [0x3E]
  | .daa => [0x27]
  | .das => [0x2F]
  | .aaa => [0x37]
  | .aas => [0x3F]
  | .aam => [0xD4]
  | .aad => [0xD5]
  | .pusha => [0x60]
  | .popa => [0x61]
  | .bound => [0x62]
  | .invalid63 => [0x63]
  | .invalid64 => [0x64]
  | .invalid65 => [0x65]
  | .invalid66 => [0x66]
  | .invalid67 => [0x67]
  | .insb => [0x6C]
  | .insw => [0x6D]
  | .outsb => [0x6E]
  | .outsw => [0x6F]
  | .invalid82 => [0x82]
  | .nop => [0x90]
  | .cbw => [0x98]
  | .cwd => [0x99]
  | .nrg => [0x9B, 0x9B, 0x9B, 0x9B]
  | .pushf => [0x9C]
  | .popf => [0x9D]
  | .sahf => [0x9E]
  | .lahf => [0x9F]
  | .movsb => [0xA4]
  | .movsw => [0xA5]
  | .cmpsb => [0xA6]
  | .cmpsw => [0xA7]
  | .stosb => [0xAA]
  | .stosw => [0xAB]
  | .lodsb => [0xAC]
  | .lodsw => [0xAD]
  | .scasb => [0xAE]
  | .scasw => [0xAF]
  | .ret => [0xC3]
  | .leave => [0xC9]
  | .retf => [0xCB]
  | .int3 => [0xCC]
  | .int86 => [0xCD, 0x86]
  | .int87 => [0xCD, 0x87]
  | .int88 => [0xCD, 0x88]
  | .into => [0xCE]
  | .iret => [0xCF]
  | .invalidD6 => [0xD6]
  | .xlat => [0xD7]
  | .inAlImm8 => [0xE4]
  | .inAxImm8 => [0xE5]
  | .outImm8Al => [0xE6]
  | .outImm8Ax => [0xE7]
  | .inAlDx => [0xEC]
  | .inAxDx => [0xED]
  | .outDxAl => [0xEE]
  | .outDxAx => [0xEF]
  | .lock => [0xF0]
  | .invalidF1 => [0xF1]
  | .repnzMovsb => [0xF2, 0xA4]
  | .repnzMovsw => [0xF2, 0xA5]
  | .repnzCmpsb => [0xF2, 0xA6]
  | .repnzCmpsw => [0xF2, 0xA7]
  | .repnzStosb => [0xF2, 0xAA]
  | .repnzStosw => [0xF2, 0xAB]
  | .repnzLodsb => [0xF2, 0xAC]
  | .repnzLodsw => [0xF2, 0xAD]
  | .repnzScasb => [0xF2, 0xAE]
  | .repnzScasw => [0xF2, 0xAF]
  | .repMovsb => [0xF3, 0xA4]
  | .repMovsw => [0xF3, 0xA5]
  | .repzCmpsb => [0xF3, 0xA6]
  | .repzCmpsw => [0xF3, 0xA7]
  | .repStosb => [0xF3, 0xAA]
  | .repStosw => [0xF3, 0xAB]
  | .repLodsb => [0xF3, 0xAC]
  | .repLodsw => [0xF3, 0xAD]
  | .repzScasb => [0xF3, 0xAE]
  | .repzScasw => [0xF3, 0xAF]
  | .hlt => [0xF4]
  | .cmc => [0xF5]
  | .clc => [0xF8]
  | .stc => [0xF9]
  | .cli => [0xFA]
  | .sti => [0xFB]
  | .cld => [0xFC]
  | .std => [0xFD]

/-! ### Words as the opcode table numbers them -/

/-- The bytes of a table word, in stream order: R137 takes the first bytes of an instruction "as one big-endian
number in stream order (the first byte of the instruction is the most significant byte of the number)", and the
table's rows are numbered so (log 1). -/
def tableBytes (nbits w : Nat) : List Byte :=
  let n := (nbits + 7) / 8
  (List.range n).map fun k => BitVec.ofNat 8 (w >>> (8 * (n - 1 - k)))

/-- A table word as the bytes in memory: every byte above the row's is 0, up to the longest instruction. -/
def tableImage (nbits w : Nat) : List Byte :=
  tableBytes nbits w ++ List.replicate (Config.maxInstrBytes - (nbits + 7) / 8) 0

/-- The instruction the decoder reads from a table word. -/
def decodeTableWord (nbits w : Nat) : Option Instr :=
  match decode (tableImage nbits w) with
  | .ok (i, _) => some i
  | .error _ => none

end Sys2Proof
end

