-- ==== Sys2Proof/Machine/Fetch.lean ====
section
/-! DEFINITION. Instruction fetch (R79, R80, R82, R111): the bytes at `CS:IP` through the execute channel, and the
instruction they begin with; and storing bytes where the next fetch reads. -/

namespace Sys2Proof.Machine

/-- The bytes from `CS:IP` on that the execute channel gives, `count` at most, up to the first it denies. -/
def fetchBytes (p : Config.Params) (perm : List Region) (m : Memory) (cs : Word) :
    (count : Nat) → (ip : Word) → List Byte
  | 0, _ => []
  | k + 1, ip =>
    if allowed p perm (lin p ⟨cs, ip⟩) .execute then
      m.read p (lin p ⟨cs, ip⟩) :: fetchBytes p perm m cs k (ip + 1)
    else []

/-- What fetching an instruction gives: it and its length, or how many bytes were fetched before one was denied. -/
inductive Fetched where
  | instruction (i : Instr) (length : Nat)
  | denied (count : Nat)
deriving DecidableEq, Repr

/-- Fetches and decodes one instruction (R111). The window of `maxInstrBytes` bytes is read ahead; since a fetch has
no side effect (R73) and the decoder looks at no byte past the instruction, this is the fetch byte by byte: a byte
beyond the window's end that the decoder asks for is the first denied one (R112, R438, log 11). -/
def fetchInstr (p : Config.Params) (h : Hart) (m : Memory) : Fetched :=
  let window := fetchBytes p h.perm m h.CS Config.maxInstrBytes h.IP
  match decode window with
  | .ok (i, rest) => .instruction i (window.length - rest.length)
  | .error _ => .denied window.length

/-- IP past `n` fetched bytes (R28, R79). -/
def Hart.advance (h : Hart) (n : Nat) : Hart := { h with IP := h.IP + BitVec.ofNat 16 n }

/-- The block with the IP of the hart whose turn it is past `n` fetched bytes. -/
def State.advance (s : State) (n : Nat) : State :=
  { s with harts := s.harts.modify s.turn fun h => h.advance n }

/-- Stores bytes at `seg:off` onward, the offset wrapping as a fetch's does (R28). -/
def placeBytes (p : Config.Params) (m : Memory) (seg : Word) : (off : Word) → List Byte → Memory
  | _, [] => m
  | off, b :: rest => placeBytes p (m.write p (lin p ⟨seg, off⟩) b) seg (off + 1) rest

/-- The block with bytes stored where the hart whose turn it is fetches its next instruction; at a round boundary the
scheduler is moved to that hart's mandatory instruction (log 25). -/
def State.placeInstr (s : State) (bytes : List Byte) : State :=
  match s.harts[s.turn]? with
  | none => s
  | some h =>
    { s with
      mem := placeBytes s.params s.mem h.CS h.IP bytes
      phase := if s.phase = .boundary then .mandatory else s.phase }

end Sys2Proof.Machine
end

