-- ==== Sys2Proof/Machine/Scheduler.lean ====
section
/-! DEFINITION. The scheduler (60_exceptions.md section 3): round boundaries, the order of turns, Energy decay, speed and
trial, the end of the war, the host's abort flag. One step of the model is a round boundary or one instruction with what
the scheduler does after it (R451, log 6). -/

namespace Sys2Proof.Machine

/-! ### Speed and trial -/

/-- `speed` (R446): the bit length of Energy, `MAX_SPEED` at most. -/
def speed (p : Config.Params) (energy : Word) : Nat :=
  if energy = 0 then 0 else min p.maxSpeed (1 + energy.toNat.log2)

/-- Whether the trial succeeds on draw `u` (R447). -/
def trialSucceeds (p : Config.Params) (energy : Word) (u : Nat) : Bool := decide (u < speed p energy)

/-- Energy after a turn's decay in round `r` (R445). -/
def decayed (p : Config.Params) (r : Nat) (energy : Word) : Word :=
  if r % p.decelerationRounds = 0 ∧ energy ≠ 0 then energy - 1 else energy

/-! ### The order of turns -/

/-- The first living hart at or after index `w` (R443). -/
def nextLiving (harts : List Hart) (w : Nat) : Option Nat :=
  ((harts.drop w).findIdx? fun h => h.alive).map fun k => w + k

/-- Gives the turn to the first living hart at or after `w`; with none left the round is over (R443, R451). -/
def State.turnFrom (s : State) (w : Nat) : State :=
  match nextLiving s.harts w with
  | some v => { s with turn := v, phase := .mandatory }
  | none => { s with round := s.round + 1, phase := .boundary }

/-- Ends the turn of the hart whose turn it is. -/
def State.nextTurn (s : State) : State := s.turnFrom (s.turn + 1)

/-! ### The round boundary -/

/-- The indices of the living harts (R448). -/
def State.winners (s : State) : List Nat :=
  (List.range s.harts.length).filter fun w => (s.harts[w]?).any fun h => h.alive

/-- `end(reason)` (R448). -/
def State.finish (s : State) (reason : EndReason) : State :=
  { s with endReason := some reason, events := .warEnd reason s.winners :: s.events }

/-- The round boundary (R448, R449, R451): the three ways the war ends, in order; else the round begins. -/
def State.atBoundary (s : State) : State :=
  if s.aliveCount < 2 then s.finish .singleWinner
  else if s.round = s.params.maxRound then s.finish .roundCapReached
  else if s.abort then s.finish .aborted
  else State.turnFrom { s with events := .round s.round :: s.events } 0

/-! ### After an instruction -/

/-- What follows a mandatory instruction its hart survived (R444 to R447): decay, then the trial on the decayed Energy;
one draw is taken in any case. -/
def State.afterMandatory (s : State) (h : Hart) : State :=
  let e := decayed s.params s.round h.energy
  let s' : State :=
    { s with harts := s.harts.set s.turn { h with energy := e }, drawCount := s.drawCount + 1 }
  if trialSucceeds s.params e (s.params.draw s.drawCount) then { s' with phase := .extra } else s'.nextTurn

/-- What follows an instruction in its slot (R434, R444, R451): the rest of a dead hart's turn is skipped. -/
def State.afterInstr (s : State) : State :=
  match s.harts[s.turn]? with
  | none => s
  | some h =>
    if !h.alive then s.nextTurn
    else if s.phase = .mandatory then s.afterMandatory h
    else s.nextTurn

/-! ### The host's abort flag -/

/-- The host raises the abort flag, at any time between two steps (R42, R449, log 7). -/
def State.raiseAbort (s : State) : State := { s with abort := true }

end Sys2Proof.Machine
end

