-- ==== Sys2Proof/Machine/Turn.lean ====
section
/-! DEFINITION. One instruction of the hart whose turn it is, from fetch to what the scheduler does after it
(`Step(w)` of R451 and its surroundings), and a whole step of the block. -/

namespace Sys2Proof.Machine

/-- `Step(w)` (R451): fetches, decodes and executes one instruction; an instruction byte that may not be executed kills
the hart with MemoryFault(execute) at that byte (R79, R431). -/
def State.runInstr (s : State) (h : Hart) : Answer :=
  match fetchInstr s.params h s.mem with
  | .instruction i n => exec i (s.advance n)
  | .denied n =>
    .next ((s.advance n).kill (.memoryFault .execute (lin s.params ⟨h.CS, h.IP + BitVec.ofNat 16 n⟩)))

/-- What follows an answer of `exec` in its slot. -/
def afterAnswer : Answer → Answer
  | .next s => .next s.afterInstr
  | .fault f => .fault f
  | .refused r => .refused r

/-- One step of the block (R451): nothing after the war's end (R448, R498), else a round boundary, else one instruction
slot; a dead hart has no slot (R443). -/
def State.blockStep (s : State) : Answer :=
  if s.endReason.isSome then .fault .warEnded
  else if s.phase = .boundary then .next s.atBoundary
  else
    match s.harts[s.turn]? with
    | none => .fault .noSuchHart
    | some h => if h.alive then afterAnswer (s.runInstr h) else .next s.nextTurn

/-- The block's steps under a schedule of the host's abort flag (R449, R498): before each step, whether the host raises
it. -/
def State.runSchedule : List Bool → State → Answer
  | [], s => .next s
  | raised :: rest, s =>
    match (if raised then s.raiseAbort else s).blockStep with
    | .next s' => s'.runSchedule rest
    | .fault f => .fault f
    | .refused r => .refused r

end Sys2Proof.Machine
end

