-- ==== Sys2Proof/Machine/Step.lean ====
section
/-! DEFINITION. The step of the machine (R451), and an instruction placed where the next step fetches it. -/

namespace Sys2Proof.Machine

/-- One step of the block (R451). -/
def step (s : State) : Host.Outcome State Fault Refusal := s.blockStep

/-- `s` with a table word's instruction where the next step fetches its instruction (log 25). -/
def State.withFetchWord (s : State) (nbits w : Nat) : State := s.placeInstr (tableImage nbits w)

end Sys2Proof.Machine
end

