-- ==== Sys2Proof/Machine/Reset.lean ====
section
/-! DEFINITION. Reset (70_reset_and_hazards.md): from the host's configuration to the state before round 0, or no state
where the configuration is illegal (R489). -/

namespace Sys2Proof.Machine

/-! ### The configuration -/

/-- One warrior of the configuration (R480): the host's name for it, its image, its load offset. -/
structure WarriorConfig where
  name : String
  image : List Byte
  loadOffset : Nat
deriving DecidableEq, Repr

/-- The configuration (R480): the parameters of R9; groups in order, members in order within each; load order is the order
they stand in. -/
structure ResetConfig where
  params : Config.Params := Config.hardware
  groups : List (List WarriorConfig)
deriving DecidableEq, Repr

/-- The warriors in load order (R480). -/
def ResetConfig.warriors (c : ResetConfig) : List WarriorConfig := c.groups.flatten

/-- Configuration validity (R483). -/
def ResetConfig.valid (c : ResetConfig) : Bool :=
  decide (2 ≤ c.warriors.length) &&
  c.groups.all (fun g => g.length == 1 || g.length == 2) &&
  c.warriors.all (fun w => decide (1 ≤ w.image.length) && decide (w.image.length ≤ c.params.maxWarriorSize))

/-- The gap to both arena edges (R484). -/
def WarriorConfig.insideArena (p : Config.Params) (w : WarriorConfig) : Bool :=
  decide (p.minGap ≤ w.loadOffset) &&
  decide (w.loadOffset + w.image.length + p.minGap ≤ p.arenaSize)

/-- The gap between two images (R484). -/
def WarriorConfig.apart (p : Config.Params) (w v : WarriorConfig) : Bool :=
  decide (w.loadOffset + w.image.length + p.minGap ≤ v.loadOffset) ||
  decide (v.loadOffset + v.image.length + p.minGap ≤ w.loadOffset)

/-- Every two of a list satisfy a symmetric test. -/
def everyPair {α : Type} (test : α → α → Bool) : List α → Bool
  | [] => true
  | a :: rest => rest.all (test a) && everyPair test rest

/-- Placement constraints (R484). -/
def ResetConfig.placed (c : ResetConfig) : Bool :=
  c.warriors.all (WarriorConfig.insideArena c.params) && everyPair (WarriorConfig.apart c.params) c.warriors

/-! ### Memory -/

/-- Fill and images (R481, R482, R485): unlisted bytes are the fill; no write events (D38). -/
def ResetConfig.memory (c : ResetConfig) : Memory :=
  c.warriors.foldl (fun m w => m.writeBytes c.params (c.params.arenaBase + w.loadOffset) w.image) ⟨[]⟩

/-! ### The bump allocator and the static records -/

/-- The stacks of a group's members (R486), from `free` on: their records and where the next block starts. -/
def allocMembers (p : Config.Params) (group shared : Nat) :
    (free : Nat) → List WarriorConfig → List WarriorInfo × Nat
  | free, [] => ([], free)
  | free, w :: rest =>
    let r := allocMembers p group shared (free + p.stackSize) rest
    (⟨w.name, w.image.length, BitVec.ofNat 16 w.loadOffset, group, free, shared⟩ :: r.1, r.2)

/-- The bump allocator over the groups (R486): the shared block first, then the members' stacks. -/
def allocGroups (p : Config.Params) :
    (group free : Nat) → List (List WarriorConfig) → List WarriorInfo × Nat
  | _, free, [] => ([], free)
  | g, free, ws :: rest =>
    let r := allocMembers p g free (free + p.sharedSize) ws
    let q := allocGroups p (g + 1) r.2 rest
    (r.1 ++ q.1, q.2)

/-! ### Permission tables -/

/-- The three grants of a hart (R487). -/
def resetPerm (p : Config.Params) (info : WarriorInfo) : Option (List Region) := do
  let t1 ← grant p [] p.arenaBase p.arenaSize p.permAll
  let t2 ← grant p t1 info.stackLinear p.stackSize p.permData
  grant p t2 info.sharedLinear p.sharedSize p.permData

/-- The harts of the records (R488); none when a grant overflows its table (R87, R489). -/
def resetHarts (p : Config.Params) : List WarriorInfo → Option (List Hart)
  | [] => some []
  | info :: rest => do
    let perm ← resetPerm p info
    let hs ← resetHarts p rest
    pure (Hart.atReset p info perm :: hs)

/-! ### The whole -/

/-- The births of harts `0 .. n-1`, newest first (R450). -/
def birthEvents (n : Nat) : List Event := ((List.range n).map Event.birth).reverse

/-- Reset (R480 to R490): `Config -> Option State`, none for every reset error of R489, and for parameters the rules
make no sense for (log 29). -/
def resetBlock (c : ResetConfig) : Option State :=
  if c.params.legal && c.valid && c.placed then
    let a := allocGroups c.params 0 c.params.arenaEnd c.groups
    if a.2 ≤ c.params.memorySize then
      match resetHarts c.params a.1 with
      | none => none
      | some hs =>
        some {
          params := c.params
          harts := hs
          mem := c.memory
          round := 0
          turn := 0
          phase := .boundary
          aliveCount := hs.length
          deathCount := 0
          endReason := none
          abort := false
          drawCount := 0
          undefCount := 0
          events := birthEvents hs.length ++ [.warStart] }
    else none
  else none

end Sys2Proof.Machine
end

