-- ==== Sys2Proof/Safety.lean ====
section
/-! DEFINITION. The words that claims are stated in: the hart whose turn it is, what it may access, what it works on after
a store, a push or an assignment, what each family leaves, what each instruction may change, the invariant of the
block. -/

namespace Sys2Proof.Machine

/-! ### The running hart and what it may access -/

/-- `h` is the hart whose turn it is. -/
def State.Running (s : State) (h : Hart) : Prop := s.harts[s.turn]? = some h

/-- A byte the hart may read as data (R75). -/
def Cpu.CanRead8 (c : Cpu) (a : Addr) : Prop := allowed c.params c.hart.perm (lin c.params a) .read = true

/-- A word the hart may read: both its bytes (R77). -/
def Cpu.CanRead16 (c : Cpu) (a : Addr) : Prop := c.CanRead8 a ∧ c.CanRead8 (addOffset a 1)

/-- A byte the hart may write (R76). -/
def Cpu.CanWrite8 (c : Cpu) (a : Addr) : Prop := allowed c.params c.hart.perm (lin c.params a) .write = true

/-- A word the hart may write: both its bytes (R77). -/
def Cpu.CanWrite16 (c : Cpu) (a : Addr) : Prop := c.CanWrite8 a ∧ c.CanWrite8 (addOffset a 1)

/-- An `Eb` operand the hart may read. -/
def Cpu.Readable8 (c : Cpu) : Rm8 → Prop
  | .reg _ => True
  | .mem m => c.CanRead8 (c.hart.ea m)

/-- An `Eb` operand the hart may write. -/
def Cpu.Writable8 (c : Cpu) : Rm8 → Prop
  | .reg _ => True
  | .mem m => c.CanWrite8 (c.hart.ea m)

/-- An `Ew` operand the hart may read. -/
def Cpu.Readable16 (c : Cpu) : Rm16 → Prop
  | .reg _ => True
  | .mem m => c.CanRead16 (c.hart.ea m)

/-- An `Ew` operand the hart may write. -/
def Cpu.Writable16 (c : Cpu) : Rm16 → Prop
  | .reg _ => True
  | .mem m => c.CanWrite16 (c.hart.ea m)

/-- The slot of the `k`th push to come: two bytes lower each (R231). -/
def Hart.pushSlot (h : Hart) (k : Nat) : Addr := ⟨h.SS, h.SP - BitVec.ofNat 16 (2 * (k + 1))⟩

/-- The slot of the `k`th pop to come (R232). -/
def Hart.popSlot (h : Hart) (k : Nat) : Addr := ⟨h.SS, h.SP + BitVec.ofNat 16 (2 * k)⟩

/-- The next `n` pushes are to writable words. -/
def Cpu.CanPush (c : Cpu) (n : Nat) : Prop := ∀ k, k < n → c.CanWrite16 (c.hart.pushSlot k)

/-- The next `n` pops are from readable words. -/
def Cpu.CanPop (c : Cpu) (n : Nat) : Prop := ∀ k, k < n → c.CanRead16 (c.hart.popSlot k)

/-! ### What is read -/

/-- The byte at an address. -/
def Cpu.byteAt (c : Cpu) (a : Addr) : Byte := c.mem.read c.params (lin c.params a)

/-- The word at an address, low byte first (R71). -/
def Cpu.wordAt (c : Cpu) (a : Addr) : Word := joinBytes (c.byteAt (addOffset a 1)) (c.byteAt a)

/-- The value of an `Eb` operand (R120). -/
def Cpu.readRm8 (c : Cpu) : Rm8 → Byte
  | .reg r => c.hart.get8 r
  | .mem m => c.byteAt (c.hart.ea m)

/-- The value of an `Ew` operand (R120). -/
def Cpu.readRm16 (c : Cpu) : Rm16 → Word
  | .reg r => c.hart.get16 r
  | .mem m => c.wordAt (c.hart.ea m)

/-- The word that the `k`th pop to come reads (R232). -/
def Cpu.stackWord (c : Cpu) (k : Nat) : Word := c.wordAt (c.hart.popSlot k)

/-! ### After an assignment -/

/-- The registers replaced. -/
def Cpu.setHart (c : Cpu) (g : Hart) : Cpu := { c with hart := g }

/-- FLAGS replaced. -/
def Cpu.setFlags (c : Cpu) (f : Flags) : Cpu := { c with hart := { c.hart with flags := f } }

/-- A byte stored, with its write event (R76, R81). -/
def Cpu.store8 (c : Cpu) (a : Addr) (v : Byte) : Cpu :=
  { c with
    mem := c.mem.write c.params (lin c.params a) v
    events := .write (lin c.params a) :: c.events }

/-- A word stored, the low byte first (R77). -/
def Cpu.store16 (c : Cpu) (a : Addr) (v : Word) : Cpu :=
  (c.store8 a (lowByte v)).store8 (addOffset a 1) (highByte v)

/-- An `UNDEF` word taken (D21). -/
def Cpu.takeUndef (c : Cpu) : Cpu := { c with undefCount := c.undefCount + 1 }

/-- The `UNDEF` word to be taken next (D21). -/
def Cpu.undef (c : Cpu) : Word := Config.undef c.undefCount

/-- An `Eb` operand assigned (R120). -/
def Cpu.writeRm8 (c : Cpu) (rm : Rm8) (v : Byte) : Cpu :=
  match rm with
  | .reg r => c.setHart (c.hart.set8 r v)
  | .mem m => c.store8 (c.hart.ea m) v

/-- An `Ew` operand assigned (R120). -/
def Cpu.writeRm16 (c : Cpu) (rm : Rm16) (v : Word) : Cpu :=
  match rm with
  | .reg r => c.setHart (c.hart.set16 r v)
  | .mem m => c.store16 (c.hart.ea m) v

/-- A word pushed: SP two lower, the word at the new `SS:SP` (R231). -/
def Cpu.push (c : Cpu) (v : Word) : Cpu :=
  (c.setHart { c.hart with SP := c.hart.SP - 2 }).store16 ⟨c.hart.SS, c.hart.SP - 2⟩ v

/-- SP moved by popping `n` words (R232). -/
def Hart.popped (h : Hart) (n : Nat) : Hart := { h with SP := h.SP + BitVec.ofNat 16 (2 * n) }

end Sys2Proof.Machine
namespace Sys2Proof

open Sys2Proof.Machine

/-! ### What each instruction may change -/

/-- The `Eb` operand an instruction writes, if its row has one (R120). -/
def Instr.dest8 : Instr → Option Rm8
  | .addEbGb rm _ | .orEbGb rm _ | .adcEbGb rm _ | .sbbEbGb rm _ | .andEbGb rm _ | .subEbGb rm _
  | .xorEbGb rm _ | .addEbImm8 rm _ | .orEbImm8 rm _ | .adcEbImm8 rm _ | .sbbEbImm8 rm _ | .andEbImm8 rm _
  | .subEbImm8 rm _ | .xorEbImm8 rm _ | .xchgGbEb _ rm | .movEbGb rm _ | .movEbImm8 rm _ | .incEb rm
  | .decEb rm | .notEb rm | .negEb rm | .rolEbImm8 rm _ | .rorEbImm8 rm _ | .rclEbImm8 rm _ | .rcrEbImm8 rm _
  | .shlEbImm8 rm _ | .shrEbImm8 rm _ | .sarEbImm8 rm _ | .rolEb1 rm | .rorEb1 rm | .rclEb1 rm | .rcrEb1 rm
  | .shlEb1 rm | .shrEb1 rm | .sarEb1 rm | .rolEbCl rm | .rorEbCl rm | .rclEbCl rm | .rcrEbCl rm | .shlEbCl rm
  | .shrEbCl rm | .sarEbCl rm => some rm
  | _ => none

/-- The `Ew` operand an instruction writes, if its row has one (R120). -/
def Instr.dest16 : Instr → Option Rm16
  | .addEwGw rm _ | .orEwGw rm _ | .adcEwGw rm _ | .sbbEwGw rm _ | .andEwGw rm _ | .subEwGw rm _
  | .xorEwGw rm _ | .addEwImm16 rm _ | .orEwImm16 rm _ | .adcEwImm16 rm _ | .sbbEwImm16 rm _ | .andEwImm16 rm _
  | .subEwImm16 rm _ | .xorEwImm16 rm _ | .addEwSimm8 rm _ | .orEwSimm8 rm _ | .adcEwSimm8 rm _
  | .sbbEwSimm8 rm _ | .andEwSimm8 rm _ | .subEwSimm8 rm _ | .xorEwSimm8 rm _ | .xchgGwEw _ rm | .movEwGw rm _
  | .movEwSw rm _ | .movEwImm16 rm _ | .popEw rm | .incEw rm | .decEw rm | .notEw rm | .negEw rm
  | .rolEwImm8 rm _ | .rorEwImm8 rm _ | .rclEwImm8 rm _ | .rcrEwImm8 rm _ | .shlEwImm8 rm _ | .shrEwImm8 rm _
  | .sarEwImm8 rm _ | .rolEw1 rm | .rorEw1 rm | .rclEw1 rm | .rcrEw1 rm | .shlEw1 rm | .shrEw1 rm | .sarEw1 rm
  | .rolEwCl rm | .rorEwCl rm | .rclEwCl rm | .rcrEwCl rm | .shlEwCl rm | .shrEwCl rm | .sarEwCl rm => some rm
  | _ => none

/-- The byte registers an instruction may write, beside an `Eb` destination and the word registers below. -/
def Instr.byteRegs : Instr → List Reg8
  | .addGbEb r _ | .orGbEb r _ | .adcGbEb r _ | .sbbGbEb r _ | .andGbEb r _ | .subGbEb r _ | .xorGbEb r _
  | .xchgGbEb r _ | .movGbEb r _ | .movReg8Imm8 r _ => [r]
  | .addAlImm8 _ | .orAlImm8 _ | .adcAlImm8 _ | .sbbAlImm8 _ | .andAlImm8 _ | .subAlImm8 _ | .xorAlImm8 _
  | .movAlMoffs16 _ | .xlat | .lodsb | .repnzLodsb | .repLodsb => [.AL]
  | .lahf => [.AH]
  | _ => []

/-- The word registers an instruction may write, beside an `Ew` destination: its destination, SP where it pushes or pops,
and the counters and pointers its rule moves. -/
def Instr.wordRegs : Instr → List Reg16
  | .addGwEw r _ | .orGwEw r _ | .adcGwEw r _ | .sbbGwEw r _ | .andGwEw r _ | .subGwEw r _ | .xorGwEw r _
  | .xchgGwEw r _ | .movGwEw r _ | .movReg16Imm16 r _ | .incReg16 r | .decReg16 r | .leaGwM r _ | .lesGwM r _
  | .ldsGwM r _ | .imulGwEwImm16 r _ _ | .imulGwEwSimm8 r _ _ => [r]
  | .xchgAxReg16 r => [.AX, r]
  | .popReg16 r => [.SP, r]
  | .addAxImm16 _ | .orAxImm16 _ | .adcAxImm16 _ | .sbbAxImm16 _ | .andAxImm16 _ | .subAxImm16 _
  | .xorAxImm16 _ | .movAxMoffs16 _ | .cbw | .mulEb _ | .imulEb _ | .divEb _ | .idivEb _ => [.AX]
  | .mulEw _ | .imulEw _ | .divEw _ | .idivEw _ => [.AX, .DX]
  | .cwd => [.DX]
  | .pushReg16 _ | .pushImm16 _ | .pushSimm8 _ | .pushEw _ | .pushEs | .pushCs | .pushSs | .pushDs | .popEs
  | .popSs | .popDs | .popEw _ | .pusha | .pushf | .popf | .callPtr1616 _ _ | .callRel16 _ | .callEw _
  | .callFarM _ | .retImm16 _ | .retfImm16 _ | .ret | .retf | .int3 | .into | .iret => [.SP]
  | .popa => [.AX, .CX, .DX, .BX, .SP, .BP, .SI, .DI]
  | .enterImm16Imm8 _ _ | .leave => [.SP, .BP]
  | .loopnzRel8 _ | .loopzRel8 _ | .loopRel8 _ => [.CX]
  | .movsb | .movsw | .cmpsb | .cmpsw => [.SI, .DI]
  | .repnzMovsb | .repMovsb | .repnzMovsw | .repMovsw | .repnzCmpsb | .repzCmpsb | .repnzCmpsw | .repzCmpsw => [.CX, .SI, .DI]
  | .stosb | .stosw | .scasb | .scasw => [.DI]
  | .repnzStosb | .repStosb | .repnzStosw | .repStosw | .repnzScasb | .repzScasb | .repnzScasw | .repzScasw => [.CX, .DI]
  | .lodsb => [.SI]
  | .lodsw => [.AX, .SI]
  | .repnzLodsb | .repLodsb => [.CX, .SI]
  | .repnzLodsw | .repLodsw => [.CX, .AX, .SI]
  | .intImm8 _ => [.SP]
  | .int86 => [.DI]
  | _ => []

/-- The segment registers an instruction may write (R32). -/
def Instr.sregs : Instr → List Sreg
  | .movSwEw sr _ => [sregOfIndex sr]
  | .popEs | .lesGwM _ _ => [.ES]
  | .popSs => [.SS]
  | .popDs | .ldsGwM _ _ => [.DS]
  | .jmpPtr1616 _ _ | .jmpFarM _ | .callPtr1616 _ _ | .callFarM _ | .retfImm16 _ | .retf | .intImm8 _ | .int3
  | .into | .iret => [.CS]
  | _ => []

/-- The instructions that may move IP beyond themselves (46_control.md). -/
def Instr.transfers : Instr → Bool
  | .joRel8 _ | .jnoRel8 _ | .jbRel8 _ | .jnbRel8 _ | .jzRel8 _ | .jnzRel8 _ | .jbeRel8 _ | .jaRel8 _
  | .jsRel8 _ | .jnsRel8 _ | .jpRel8 _ | .jnpRel8 _ | .jlRel8 _ | .jgeRel8 _ | .jleRel8 _ | .jgRel8 _
  | .loopnzRel8 _ | .loopzRel8 _ | .loopRel8 _ | .jcxzRel8 _ | .jmpRel8 _ | .jmpRel16 _ | .jmpPtr1616 _ _
  | .jmpEw _ | .jmpFarM _ | .callRel16 _ | .callPtr1616 _ _ | .callEw _ | .callFarM _ | .ret | .retImm16 _
  | .retf | .retfImm16 _ | .intImm8 _ | .int3 | .into | .iret => true
  | _ => false

/-- The bits of FLAGS an instruction may write (R48), by the positions of R29: CF 0, PF 2, AF 4, ZF 6, SF 7, TF 8, IF 9,
DF 10, OF 11. -/
def Instr.flagMask : Instr → Word
  | .addEbGb _ _ | .addEwGw _ _ | .addGbEb _ _ | .addGwEw _ _ | .addAlImm8 _ | .addAxImm16 _ | .orEbGb _ _
  | .orEwGw _ _ | .orGbEb _ _ | .orGwEw _ _ | .orAlImm8 _ | .orAxImm16 _ | .adcEbGb _ _ | .adcEwGw _ _
  | .adcGbEb _ _ | .adcGwEw _ _ | .adcAlImm8 _ | .adcAxImm16 _ | .sbbEbGb _ _ | .sbbEwGw _ _ | .sbbGbEb _ _
  | .sbbGwEw _ _ | .sbbAlImm8 _ | .sbbAxImm16 _ | .andEbGb _ _ | .andEwGw _ _ | .andGbEb _ _ | .andGwEw _ _
  | .andAlImm8 _ | .andAxImm16 _ | .subEbGb _ _ | .subEwGw _ _ | .subGbEb _ _ | .subGwEw _ _ | .subAlImm8 _
  | .subAxImm16 _ | .xorEbGb _ _ | .xorEwGw _ _ | .xorGbEb _ _ | .xorGwEw _ _ | .xorAlImm8 _ | .xorAxImm16 _
  | .cmpEbGb _ _ | .cmpEwGw _ _ | .cmpGbEb _ _ | .cmpGwEw _ _ | .cmpAlImm8 _ | .cmpAxImm16 _ | .addEbImm8 _ _
  | .orEbImm8 _ _ | .adcEbImm8 _ _ | .sbbEbImm8 _ _ | .andEbImm8 _ _ | .subEbImm8 _ _ | .xorEbImm8 _ _
  | .cmpEbImm8 _ _ | .addEwImm16 _ _ | .orEwImm16 _ _ | .adcEwImm16 _ _ | .sbbEwImm16 _ _ | .andEwImm16 _ _
  | .subEwImm16 _ _ | .xorEwImm16 _ _ | .cmpEwImm16 _ _ | .addEwSimm8 _ _ | .orEwSimm8 _ _ | .adcEwSimm8 _ _
  | .sbbEwSimm8 _ _ | .andEwSimm8 _ _ | .subEwSimm8 _ _ | .xorEwSimm8 _ _ | .cmpEwSimm8 _ _ | .testEbGb _ _
  | .testEwGw _ _ | .testAlImm8 _ | .testAxImm16 _ | .testEbImm8 _ _ | .testEwImm16 _ _ | .negEb _ | .negEw _
  | .cmpsb | .repnzCmpsb | .repzCmpsb | .cmpsw | .repnzCmpsw | .repzCmpsw | .scasb | .repnzScasb | .repzScasb
  | .scasw | .repnzScasw | .repzScasw | .mulEb _ | .imulEb _ | .divEb _ | .idivEb _ | .mulEw _ | .imulEw _
  | .divEw _ | .idivEw _ | .imulGwEwImm16 _ _ _ | .imulGwEwSimm8 _ _ _ => 0x08D5
  | .incReg16 _ | .decReg16 _ | .incEb _ | .decEb _ | .incEw _ | .decEw _ => 0x08D4
  | .shlEbImm8 _ _ | .shlEwImm8 _ _ | .shlEb1 _ | .shlEw1 _ | .shlEbCl _ | .shlEwCl _ | .shrEbImm8 _ _
  | .shrEwImm8 _ _ | .shrEb1 _ | .shrEw1 _ | .shrEbCl _ | .shrEwCl _ | .sarEbImm8 _ _ | .sarEwImm8 _ _
  | .sarEb1 _ | .sarEw1 _ | .sarEbCl _ | .sarEwCl _ => 0x08D5
  | .rolEbImm8 _ _ | .rolEwImm8 _ _ | .rolEb1 _ | .rolEw1 _ | .rolEbCl _ | .rolEwCl _ | .rorEbImm8 _ _
  | .rorEwImm8 _ _ | .rorEb1 _ | .rorEw1 _ | .rorEbCl _ | .rorEwCl _ | .rclEbImm8 _ _ | .rclEwImm8 _ _
  | .rclEb1 _ | .rclEw1 _ | .rclEbCl _ | .rclEwCl _ | .rcrEbImm8 _ _ | .rcrEwImm8 _ _ | .rcrEb1 _ | .rcrEw1 _
  | .rcrEbCl _ | .rcrEwCl _ => 0x0801
  | .clc | .stc | .cmc => 0x0001
  | .cld | .std => 0x0400
  | .cli | .sti => 0x0200
  | .sahf => 0x00D5
  | .popf | .iret => 0xFFFF
  | .intImm8 _ | .int3 | .into => 0x0300
  | _ => 0

/-- How many words an instruction pushes (R231). -/
def Instr.pushes : Instr → Nat
  | .pushReg16 _ | .pushImm16 _ | .pushSimm8 _ | .pushEw _ | .pushEs | .pushCs | .pushSs | .pushDs | .pushf
  | .callRel16 _ | .callEw _ => 1
  | .callPtr1616 _ _ | .callFarM _ => 2
  | .intImm8 _ | .int3 | .into => 3
  | .pusha => 8
  | .enterImm16Imm8 _ level => 1 + level.toNat % 32
  | _ => 0

/-- How many elements of how many bytes a string instruction may store from `ES:DI` on (R291, R292, R294), and the carpet
bomb's words (R402). -/
def Instr.elements (i : Instr) (h : Hart) : Nat × Nat :=
  match i with
  | .movsb | .stosb => (1, 1)
  | .movsw | .stosw => (1, 2)
  | .repnzMovsb | .repMovsb | .repnzStosb | .repStosb => (h.CX.toNat, 1)
  | .repnzMovsw | .repMovsw | .repnzStosw | .repStosw => (h.CX.toNat, 2)
  | .int86 => (128, 2)
  | _ => (0, 0)

/-- The rows whose whole effect is to raise a fault, and which (R410 to R418, R432, R433). -/
def Instr.raises : Instr → Option HartFault
  | .leaRegister _ _ | .invalid8Fs1 _ _ | .invalid8Fs2 _ _ | .invalid8Fs3 _ _ | .invalid8Fs4 _ _
  | .invalid8Fs5 _ _ | .invalid8Fs6 _ _ | .invalid8Fs7 _ _ | .nrgBroken _ _ | .invalidC0s6 _ _
  | .invalidC1s6 _ _ | .invalidD0s6 _ _ | .invalidD1s6 _ _ | .invalidD2s6 _ _ | .invalidD3s6 _ _
  | .lesRegister _ _ | .ldsRegister _ _ | .invalidC6s1 _ _ | .invalidC6s2 _ _ | .invalidC6s3 _ _
  | .invalidC6s4 _ _ | .invalidC6s5 _ _ | .invalidC6s6 _ _ | .invalidC6s7 _ _ | .invalidC7s1 _ _
  | .invalidC7s2 _ _ | .invalidC7s3 _ _ | .invalidC7s4 _ _ | .invalidC7s5 _ _ | .invalidC7s6 _ _
  | .invalidC7s7 _ _ | .repnzBroken _ | .repBroken _ | .invalidF6s1 _ _ | .invalidF7s1 _ _ | .invalidFEs2 _ _
  | .invalidFEs3 _ _ | .invalidFEs4 _ _ | .invalidFEs5 _ _ | .invalidFEs6 _ _ | .invalidFEs7 _ _
  | .invalidFFs7 _ _ | .callFarRegister _ | .jmpFarRegister _ | .invalid0F | .invalid63 | .invalid64
  | .invalid65 | .invalid66 | .invalid67 | .invalid82 | .invalidD6 | .invalidF1 => some .invalidOpcode
  | .esc _ | .esOverride | .csOverride | .ssOverride | .dsOverride | .daa | .das | .aaa | .aas | .aam | .aad
  | .bound | .insb | .insw | .outsb | .outsw | .inAlImm8 | .inAxImm8 | .outImm8Al | .outImm8Ax | .inAlDx
  | .inAxDx | .outDxAl | .outDxAx | .lock | .hlt => some .unimplementedOpcode
  | _ => none

end Sys2Proof

namespace Sys2Proof.Machine

/-! ### Where each instruction may store -/

/-- The bytes of a word in memory (R77). -/
def wordAddrs (a : Addr) : List Addr := [a, addOffset a 1]

/-- The `k`th element from `DS:SI` on (R290). -/
def Hart.source (h : Hart) (bytes : Nat) (k : Nat) : Addr :=
  ⟨h.DS, h.SI + BitVec.ofNat 16 k * stringStep (BitVec.ofNat 16 bytes) h⟩

/-- The `k`th element from `ES:DI` on (R290, R402). -/
def Hart.target (h : Hart) (bytes : Nat) (k : Nat) : Addr :=
  ⟨h.ES, h.DI + BitVec.ofNat 16 k * stringStep (BitVec.ofNat 16 bytes) h⟩

/-- Where the smart bomb finds its pattern: the first place from `ES:DI` upward that holds AX and then DX (R403). -/
def Cpu.bombPlace (c : Cpu) : Option Addr :=
  ((List.range 0x10000).map fun i => (⟨c.hart.ES, c.hart.DI + BitVec.ofNat 16 i⟩ : Addr)).find? fun a =>
    c.wordAt a == c.hart.AX && c.wordAt (addOffset a 2) == c.hart.DX

end Sys2Proof.Machine

namespace Sys2Proof

open Sys2Proof.Machine

/-- The addresses of the bytes an instruction may store to, from what it works on: its memory destination by its
effective address (R118), the stack slots it pushes to, the string elements from `ES:DI` on, the bombs' targets. -/
def Instr.stores (i : Instr) (c : Cpu) : List Addr :=
  (match i.dest8 with
    | some (.mem m) => [c.hart.ea m]
    | _ => []) ++
  (match i.dest16 with
    | some (.mem m) => wordAddrs (c.hart.ea m)
    | _ => []) ++
  (match i with
    | .movMoffs16Al o => [⟨c.hart.DS, o⟩]
    | .movMoffs16Ax o => wordAddrs ⟨c.hart.DS, o⟩
    | .int87 =>
      match c.bombPlace with
      | some a => wordAddrs a ++ wordAddrs (addOffset a 2)
      | none => []
    | _ => []) ++
  (List.range i.pushes).flatMap (fun k => wordAddrs (c.hart.pushSlot k)) ++
  (List.range (i.elements c.hart).1).flatMap fun k =>
    (List.range (i.elements c.hart).2).map fun b => addOffset (c.hart.target (i.elements c.hart).2 k) (BitVec.ofNat 16 b)

/-- The word register a byte register is half of (R22). -/
def Reg8.wide : Reg8 → Reg16
  | .AL | .AH => .AX
  | .CL | .CH => .CX
  | .DL | .DH => .DX
  | .BL | .BH => .BX

/-- Whether an instruction may write a word register as a whole. -/
def Instr.writes16 (i : Instr) (r : Reg16) : Bool := i.wordRegs.contains r || i.dest16 == some (.reg r)

/-- Whether an instruction may write a byte register, alone or with the word it is half of. -/
def Instr.writes8 (i : Instr) (b : Reg8) : Bool :=
  i.byteRegs.contains b || i.dest8 == some (.reg b) || i.writes16 b.wide

end Sys2Proof

namespace Sys2Proof.Machine

/-! ### What each family leaves -/

/-- A two-operand operation (R171) whose destination `rm` holds `a`, with source value `b`. -/
def Cpu.alu8 (c : Cpu) (op : AluOp) (rm : Rm8) (a b : Byte) : Cpu :=
  let p := op.apply a b c.hart.flags c.undef
  let d := (if op.leavesUndefined then c.takeUndef else c).setFlags p.2
  if op.writes then d.writeRm8 rm p.1 else d

/-- A two-operand operation of word width (R171). -/
def Cpu.alu16 (c : Cpu) (op : AluOp) (rm : Rm16) (a b : Word) : Cpu :=
  let p := op.apply a b c.hart.flags c.undef
  let d := (if op.leavesUndefined then c.takeUndef else c).setFlags p.2
  if op.writes then d.writeRm16 rm p.1 else d

/-- A shift or rotate (R271): nothing for a masked count of 0. -/
def Cpu.shift8 (c : Cpu) (op : ShiftOp) (raw : Byte) (rm : Rm8) : Cpu :=
  let v := c.readRm8 rm
  let n := maskedCount c.params raw
  let p := shiftRepeat op n v c.hart.flags.CF
  let d := if shiftLeavesUndefined op n then c.takeUndef else c
  if n = 0 then c
  else (d.setFlags (c.hart.flags.setShift op n v p.1 p.2 c.undef)).writeRm8 rm p.1

/-- A shift or rotate of word width (R271). -/
def Cpu.shift16 (c : Cpu) (op : ShiftOp) (raw : Byte) (rm : Rm16) : Cpu :=
  let v := c.readRm16 rm
  let n := maskedCount c.params raw
  let p := shiftRepeat op n v c.hart.flags.CF
  let d := if shiftLeavesUndefined op n then c.takeUndef else c
  if n = 0 then c
  else (d.setFlags (c.hart.flags.setShift op n v p.1 p.2 c.undef)).writeRm16 rm p.1

/-- SI one element on (R290). -/
def Hart.stepSi (h : Hart) (bytes : Word) : Hart := { h with SI := h.SI + stringStep bytes h }

/-- DI one element on (R290). -/
def Hart.stepDi (h : Hart) (bytes : Word) : Hart := { h with DI := h.DI + stringStep bytes h }

/-- MOVSB (R292). -/
def Cpu.movsb (c : Cpu) : Cpu :=
  (c.store8 ⟨c.hart.ES, c.hart.DI⟩ (c.byteAt ⟨c.hart.DS, c.hart.SI⟩)).setHart ((c.hart.stepSi 1).stepDi 1)

/-- MOVSW (R292). -/
def Cpu.movsw (c : Cpu) : Cpu :=
  (c.store16 ⟨c.hart.ES, c.hart.DI⟩ (c.wordAt ⟨c.hart.DS, c.hart.SI⟩)).setHart ((c.hart.stepSi 2).stepDi 2)

/-- STOSB (R294). -/
def Cpu.stosb (c : Cpu) : Cpu :=
  (c.store8 ⟨c.hart.ES, c.hart.DI⟩ (c.hart.get8 .AL)).setHart (c.hart.stepDi 1)

/-- STOSW (R294). -/
def Cpu.stosw (c : Cpu) : Cpu :=
  (c.store16 ⟨c.hart.ES, c.hart.DI⟩ c.hart.AX).setHart (c.hart.stepDi 2)

/-- LODSB (R295). -/
def Cpu.lodsb (c : Cpu) : Cpu :=
  c.setHart ((c.hart.set8 .AL (c.byteAt ⟨c.hart.DS, c.hart.SI⟩)).stepSi 1)

/-- LODSW (R295). -/
def Cpu.lodsw (c : Cpu) : Cpu :=
  c.setHart ((c.hart.set16 .AX (c.wordAt ⟨c.hart.DS, c.hart.SI⟩)).stepSi 2)

/-- CMPSB (R293): source minus destination. -/
def Cpu.cmpsb (c : Cpu) : Cpu :=
  (c.setHart ((c.hart.stepSi 1).stepDi 1)).setFlags
    (c.hart.flags.setArith (subN (c.byteAt ⟨c.hart.DS, c.hart.SI⟩) (c.byteAt ⟨c.hart.ES, c.hart.DI⟩) false))

/-- CMPSW (R293). -/
def Cpu.cmpsw (c : Cpu) : Cpu :=
  (c.setHart ((c.hart.stepSi 2).stepDi 2)).setFlags
    (c.hart.flags.setArith (subN (c.wordAt ⟨c.hart.DS, c.hart.SI⟩) (c.wordAt ⟨c.hart.ES, c.hart.DI⟩) false))

/-- SCASB (R296): AL minus memory. -/
def Cpu.scasb (c : Cpu) : Cpu :=
  (c.setHart (c.hart.stepDi 1)).setFlags
    (c.hart.flags.setArith (subN (c.hart.get8 .AL) (c.byteAt ⟨c.hart.ES, c.hart.DI⟩) false))

/-- SCASW (R296). -/
def Cpu.scasw (c : Cpu) : Cpu :=
  (c.setHart (c.hart.stepDi 2)).setFlags
    (c.hart.flags.setArith (subN c.hart.AX (c.wordAt ⟨c.hart.ES, c.hart.DI⟩) false))

/-- A string instruction repeated (R291): after each element CX goes down by one, then `stop` looks at the flags. -/
def Cpu.repeated (one : Cpu → Cpu) (stop : Flags → Bool) : (count : Nat) → Cpu → Cpu
  | 0, c => c
  | k + 1, c =>
    let d := (one c).setHart { (one c).hart with CX := (one c).hart.CX - 1 }
    if stop d.hart.flags then d else Cpu.repeated one stop k d

/-- The flags of a multiply (R314). -/
def Cpu.mulFlagged (c : Cpu) (wide : Bool) : Cpu := c.takeUndef.setFlags (c.hart.flags.setMul wide c.undef)

/-- The flags of a divide (R316). -/
def Cpu.divFlagged (c : Cpu) : Cpu := c.takeUndef.setFlags (c.hart.flags.setUndefined c.undef)

/-- The three words of the interrupt dispatch pushed, IF and TF cleared after the first (R370). -/
def Cpu.pushFrame (c : Cpu) : Cpu :=
  let d := c.push c.hart.flags.toWord
  ((d.setFlags { c.hart.flags with IF := false, TF := false }).push c.hart.CS).push c.hart.IP

/-- The interrupt dispatch (R370): the vector is read after the pushes. -/
def Cpu.dispatched (c : Cpu) (n : Byte) : Cpu :=
  let d := c.pushFrame
  d.setHart { d.hart with IP := d.wordAt (vectorAddr n), CS := d.wordAt (addOffset (vectorAddr n) 2) }

/-- The display copies of ENTER (R244). -/
def Cpu.enterCopied : (count : Nat) → Cpu → Cpu
  | 0, c => c
  | k + 1, c =>
    let d := c.setHart { c.hart with BP := c.hart.BP - 2 }
    Cpu.enterCopied k (d.push (d.wordAt ⟨d.hart.SS, d.hart.BP⟩))

/-- ENTER (R244). -/
def Cpu.entered (c : Cpu) (size : Word) (level : Byte) : Cpu :=
  let d := c.push c.hart.BP
  let e := match level.toNat % 32 with
    | 0 => d
    | k + 1 => (Cpu.enterCopied k d).push d.hart.SP
  e.setHart { e.hart with BP := d.hart.SP, SP := e.hart.SP - size }

/-- The words of the carpet bomb (R402): AX and DX in turn from `ES:DI` on, by DF. -/
def Cpu.bombed : (pairs : Nat) → Cpu → Cpu
  | 0, c => c
  | k + 1, c =>
    let d := (c.store16 ⟨c.hart.ES, c.hart.DI⟩ c.hart.AX).setHart (c.hart.stepDi 2)
    Cpu.bombed k ((d.store16 ⟨d.hart.ES, d.hart.DI⟩ d.hart.DX).setHart (d.hart.stepDi 2))

/-! ### Faults inside an instruction -/

/-- What reading `n` bytes from an address on raises: MemoryFault(read) at the first that may not be read (R75, R77). -/
def Cpu.readFault (c : Cpu) (n : Nat) (a : Addr) : Option HartFault :=
  ((List.range n).map fun k => lin c.params (addOffset a (BitVec.ofNat 16 k))).findSome? fun L =>
    if allowed c.params c.hart.perm L .read then none else some (.memoryFault .read L)

/-- What storing bytes from an address on raises, and what is left: MemoryFault(write) at the first that may not be
written, those before it stored (R76, R77, R439). -/
def Cpu.writeFault (c : Cpu) (a : Addr) : List Byte → Option (HartFault × Cpu)
  | [] => none
  | b :: rest =>
    if allowed c.params c.hart.perm (lin c.params a) .write then (c.store8 a b).writeFault (addOffset a 1) rest
    else some (.memoryFault .write (lin c.params a), c)

/-- What a push raises, and what is left: SP has moved (R231, R439). -/
def Cpu.pushFault (c : Cpu) (v : Word) : Option (HartFault × Cpu) :=
  (c.setHart { c.hart with SP := c.hart.SP - 2 }).writeFault ⟨c.hart.SS, c.hart.SP - 2⟩ [lowByte v, highByte v]

/-- What a pop raises: SP has not moved (R232). -/
def Cpu.popFault (c : Cpu) : Option HartFault := c.readFault 2 ⟨c.hart.SS, c.hart.SP⟩

/-- The string operations (R292 to R296). -/
inductive StringOp where
  | movs
  | cmps
  | stos
  | lods
  | scas
deriving DecidableEq, Repr

/-- Whether an operation reads at `DS:SI` and moves SI. -/
def StringOp.usesSource : StringOp → Bool
  | .movs | .cmps | .lods => true
  | .stos | .scas => false

/-- Whether an operation works at `ES:DI` and moves DI. -/
def StringOp.usesTarget : StringOp → Bool
  | .movs | .cmps | .stos | .scas => true
  | .lods => false

/-- What one element of `n` bytes raises, and what is left: source before target, the bytes of an element in ascending
order (R292 to R296, R438). -/
def Cpu.elementFault (c : Cpu) (op : StringOp) (n : Nat) : Option (HartFault × Cpu) :=
  let source : Addr := ⟨c.hart.DS, c.hart.SI⟩
  let target : Addr := ⟨c.hart.ES, c.hart.DI⟩
  let left (f : Option HartFault) : Option (HartFault × Cpu) := f.map fun f => (f, c)
  match op with
  | .movs => (left (c.readFault n source)).or (c.writeFault target
      ((List.range n).map fun k => c.byteAt (addOffset source (BitVec.ofNat 16 k))))
  | .cmps => left ((c.readFault n source).or (c.readFault n target))
  | .stos => c.writeFault target ([lowByte c.hart.AX, highByte c.hart.AX].take n)
  | .lods => left (c.readFault n source)
  | .scas => left (c.readFault n target)

/-! ### Permission tables -/

/-- `P_T(x)` (R86): the permission byte of the region that covers an address; 0 past the last region. -/
def permAt : List Region → Nat → Byte
  | [], _ => 0
  | r :: rest, L => if L < r.stop then r.perm else permAt rest L

/-- Region ends strictly rising from `low` (R83). -/
def risingFrom (low : Nat) : List Region → Bool
  | [] => true
  | r :: rest => decide (low < r.stop) && risingFrom r.stop rest

/-- What R83 asks of a permission table: ends strictly rising and inside memory, `MAX_REGIONS` of them at most, no bits in
a permission byte but the three. -/
def tableWf (p : Config.Params) (T : List Region) : Bool :=
  risingFrom 0 T && decide (tableEnd T ≤ p.memorySize) && decide (T.length ≤ p.maxRegions) &&
  T.all fun r => r.perm &&& ~~~p.permAll == 0

/-! ### The invariant of the block -/

/-- How many harts are alive (R40). -/
def State.living (s : State) : Nat := s.harts.countP fun h => h.alive

/-- What holds of the block at every step: legal parameters (log 29); memory in its canonical form (log 13); the two counts
of R40 and R47; a turn that names a hart; well-formed permission tables (R83); no round past the cap (R448); inside a
round the hart whose turn it is lives and the war goes on (R443); an ended war stands at a boundary (R448). -/
def State.Inv (s : State) : Prop :=
  s.params.legal = true ∧
  s.mem.wf s.params = true ∧
  s.aliveCount = s.living ∧
  s.aliveCount + s.deathCount = s.harts.length ∧
  s.turn < s.harts.length ∧
  (∀ h ∈ s.harts, tableWf s.params h.perm = true) ∧
  s.round ≤ s.params.maxRound ∧
  (s.phase ≠ .boundary →
    s.endReason = none ∧ s.round < s.params.maxRound ∧ ∃ h, s.Running h ∧ h.alive = true)

end Sys2Proof.Machine
end

