-- ==== Sys2Proof/Certificates/Slice0/Obligations.lean ====
section
/-! DEFINITION. The statements for the provers, from the numbered rules of the spec. `s.cpu h` is what the hart `h` works
on; an equation `exec i s = .next (s.commit c)` says that `i` completes and leaves exactly `c`: every register, flag and
byte that `c` does not name is as before. -/

section
open Sys2Proof Sys2Proof.Machine

/-- Decoding an encoded well-formed instruction gives it back, with the bytes after it (30_encoding.md, R110, R137).
-/
def Obligations.DecodeEncode : Prop :=
  ∀ (i : Instr) (rest : List Byte), i.wf = true → decode (encode i ++ rest) = .ok (i, rest)

/-- Whatever the decoder reads is well-formed and is what the encoder writes; six bytes always suffice
(30_encoding.md, R110, R111). -/
def Obligations.DecodeIsEncoding : Prop :=
  ∀ bs : List Byte,
    (∀ i rest, decode bs = .ok (i, rest) → i.wf = true ∧ bs = encode i ++ rest) ∧
    (Config.maxInstrBytes ≤ bs.length → ∃ i rest, decode bs = .ok (i, rest))

/-- Words written out from the encodings of the spec decode to the instructions they stand for (30_encoding.md,
40_alu.md, 46_control.md). -/
def Obligations.DecodeWords : Prop :=
  decode [0x01, 0xD8] = .ok (.addEwGw (.reg .AX) .BX, []) ∧
  decode [0x0C, 0x80] = .ok (.orAlImm8 0x80, []) ∧
  decode [0x88, 0x42, 0xFE] = .ok (.movEbGb (.mem (.disp8 .bpSi 0xFE)) .AL, []) ∧
  decode [0x83, 0x06, 0x34, 0x12, 0xFF] = .ok (.addEwSimm8 (.mem (.absolute 0x1234)) 0xFF, []) ∧
  decode [0xC4, 0x5F, 0x10] = .ok (.lesGwM .BX (.disp8 .bx 0x10), []) ∧
  decode [0xC8, 0x04, 0x00, 0x01] = .ok (.enterImm16Imm8 4 1, []) ∧
  decode [0xD2, 0x25] = .ok (.shlEbCl (.mem (.plain .di)), []) ∧
  decode [0xF3, 0xA7] = .ok (.repzCmpsw, []) ∧
  decode [0xF7, 0xF9] = .ok (.idivEw (.reg .CX), []) ∧
  decode [0x75, 0xFE] = .ok (.jnzRel8 0xFE, []) ∧
  decode [0x9A, 0x40, 0x00, 0x00, 0x10] = .ok (.callPtr1616 0x0040 0x1000, []) ∧
  decode [0xCD, 0x21] = .ok (.intImm8 0x21, []) ∧
  decode [0x9E] = .ok (.sahf, []) ∧
  decode [0x9B, 0x9B, 0x9B, 0x9B] = .ok (.nrg, []) ∧
  decode [0x2E] = .ok (.csOverride, [])

/-- Inside a round, a step runs the instruction its fetched bytes decode to, IP past it, then ends the slot
(30_encoding.md, R111, R451). -/
def Obligations.StepRunsDecoded : Prop :=
  ∀ (s : State) (h : Hart) (i : Instr) (rest : List Byte),
    s.endReason = none → s.phase ≠ .boundary → s.Running h → h.alive = true → i.wf = true →
    decode (fetchBytes s.params h.perm s.mem h.CS Config.maxInstrBytes h.IP) = .ok (i, rest) →
    step s = afterAnswer (exec i (s.advance
      ((fetchBytes s.params h.perm s.mem h.CS Config.maxInstrBytes h.IP).length - rest.length)))

/-- A step runs the instruction whose encoding stands, executable, at CS:IP (20_memory.md, R79, R80, R111). -/
def Obligations.StepRunsEncoded : Prop :=
  ∀ (s : State) (h : Hart) (i : Instr),
    s.endReason = none → s.phase ≠ .boundary → s.Running h → h.alive = true → i.wf = true →
    (∀ k, k < (encode i).length →
      allowed s.params h.perm (lin s.params ⟨h.CS, h.IP + BitVec.ofNat 16 k⟩) .execute = true ∧
      (encode i)[k]? = some (s.mem.read s.params (lin s.params ⟨h.CS, h.IP + BitVec.ofNat 16 k⟩))) →
    step s = afterAnswer (exec i (s.advance (encode i).length))

/-- An instruction byte that may not be executed kills the hart with MemoryFault(execute) at that byte (20_memory.md,
R79, R431, R438). -/
def Obligations.FetchDeniedKills : Prop :=
  ∀ (s : State) (h : Hart) (n : Nat) (bs : List Byte),
    s.endReason = none → s.phase ≠ .boundary → s.Running h → h.alive = true →
    bs.length = n →
    (∀ k, k < n →
      allowed s.params h.perm (lin s.params ⟨h.CS, h.IP + BitVec.ofNat 16 k⟩) .execute = true ∧
      bs[k]? = some (s.mem.read s.params (lin s.params ⟨h.CS, h.IP + BitVec.ofNat 16 k⟩))) →
    (∀ i rest, decode bs ≠ .ok (i, rest)) →
    allowed s.params h.perm (lin s.params ⟨h.CS, h.IP + BitVec.ofNat 16 n⟩) .execute = false →
    step s = .next
      ((s.advance n).kill (.memoryFault .execute (lin s.params ⟨h.CS, h.IP + BitVec.ofNat 16 n⟩))).afterInstr

/-- The linear address of every segment and offset, which alone decides equality, order and access; offset and segment
arithmetic (R60, R61). -/
def Obligations.AddressArithmetic : Prop :=
  (∀ (p : Config.Params) (seg off : Word),
    lin p ⟨seg, off⟩ = (seg.toNat * p.paragraphSize + off.toNat) % p.memorySize) ∧
  (∀ seg off : Word, lin Config.hardware ⟨seg, off⟩ = (seg.toNat * 16 + off.toNat) % 2 ^ 20) ∧
  (∀ (a : Addr) (d : Word),
    (addOffset a d).seg = a.seg ∧ (addOffset a d).off.toNat = (a.off.toNat + d.toNat) % 2 ^ 16) ∧
  (∀ (p : Config.Params) (L : Nat), p.legal = true → L < p.memorySize →
    lin p (fromLinear p L) = L ∧ (fromLinear p L).seg.toNat = L / p.paragraphSize ∧
    (fromLinear p L).off.toNat = L % p.paragraphSize) ∧
  (∀ (p : Config.Params) (a b : Addr),
    (sameAddress p a b = true ↔ lin p a = lin p b) ∧ (compareAddress p a b = .eq ↔ sameAddress p a b = true) ∧
    (compareAddress p a b = .lt ↔ lin p a < lin p b) ∧ (compareAddress p a b = .gt ↔ lin p b < lin p a)) ∧
  (∀ (p : Config.Params) (a : Addr), p.legal = true → sameAddress p (fromLinear p (lin p a)) a = true) ∧
  sameAddress Config.hardware ⟨0x1000, 0x2345⟩ ⟨0x1234, 0x0005⟩ = true ∧
  (∀ (c : Cpu) (a b : Addr), sameAddress c.params a b = true →
    c.byteAt a = c.byteAt b ∧ (∀ ch, readByte ch a c = readByte ch b c) ∧
    ∀ v, writeByte a v c = writeByte b v c)

/-- A byte access is allowed exactly when the region that covers the address has the bit of the channel (20_memory.md,
R83, R84, R85). -/
def Obligations.AllowedIsRegionBit : Prop :=
  (∀ (p : Config.Params) (T : List Region) (L : Nat) (ch : Channel),
    tableWf p T = true → L < p.memorySize →
    let bit := match ch with
      | .read => p.permRead
      | .write => p.permWrite
      | .execute => p.permExec
    (allowed p T L ch = true ↔ permAt T L &&& bit = bit)) ∧
  Config.hardware.permRead = 1 ∧ Config.hardware.permWrite = 2 ∧ Config.hardware.permExec = 4

/-- A grant answers the one merged table of R86, or none exactly when that has more than MAX_REGIONS regions
(20_memory.md, R86, R87). -/
def Obligations.GrantSetsRange : Prop :=
  ∀ (p : Config.Params) (T : List Region) (addr size : Nat) (perm : Byte),
    tableWf p T = true → perm &&& ~~~p.permAll = 0 →
    let isMerged (U : List Region) : Prop :=
      risingFrom 0 U = true ∧ tableEnd U = max (min (addr + size) p.memorySize) (tableEnd T) ∧
      (∀ L, L < p.memorySize → permAt U L = if addr ≤ L ∧ L < addr + size then perm else permAt T L) ∧
      U.IsChain fun q r => q.perm ≠ r.perm
    (size = 0 → grant p T addr size perm = some T) ∧
    (size ≠ 0 → ∃ U, isMerged U ∧ (∀ V, isMerged V → V = U) ∧ U.length ≤ T.length + 2 ∧
      (U.length ≤ p.maxRegions → grant p T addr size perm = some U ∧ tableWf p U = true) ∧
      (p.maxRegions < U.length → grant p T addr size perm = none))

/-- Memories in canonical form that read the same are equal; writing back a byte changes nothing; writes at different
addresses commute (20_memory.md, R38, R70, log 13). The canonical form (rising addresses, no entry equal to the fill)
is the model's own: log 13. -/
def Obligations.MemoryIsItsBytes : Prop :=
  ∀ p : Config.Params,
    (∀ m n : Memory, m.wf p = true → n.wf p = true → (∀ L, L < p.memorySize → m.read p L = n.read p L) → m = n) ∧
    (∀ (m : Memory) (L : Nat), m.wf p = true → L < p.memorySize → m.write p L (m.read p L) = m) ∧
    (∀ (m : Memory) (L K : Nat) (v w : Byte), m.wf p = true → L < p.memorySize → K < p.memorySize → L ≠ K →
      (m.write p L v).write p K w = (m.write p K w).write p L v)

/-- A word stored is read back, low byte at the address, high byte one on, at any alignment; every other byte stays
(20_memory.md, R70, R71, R72). -/
def Obligations.WordsAreLittleEndian : Prop :=
  ∀ (c : Cpu) (a : Addr) (v : Word), c.params.legal = true → 1 < c.params.memorySize →
    (c.store16 a v).wordAt a = v ∧
    (c.store16 a v).byteAt a = v.extractLsb' 0 8 ∧
    (c.store16 a v).byteAt ⟨a.seg, a.off + 1⟩ = v.extractLsb' 8 8 ∧
    ∀ L, L ≠ lin c.params a → L ≠ lin c.params ⟨a.seg, a.off + 1⟩ →
      (c.store16 a v).mem.read c.params L = c.mem.read c.params L

/-- Every step keeps the invariant of the block (10_state.md, 20_memory.md, 60_exceptions.md, R47, R83, R448). -/
def Obligations.StepKeepsInv : Prop :=
  ∀ s t : State, s.Inv → step s = .next t → t.Inv

/-- The model's reset state meets the invariant, and is the reset of a legal configuration (that of log 2) with the
parameters of R9 (70_reset_and_hazards.md, 00_scope.md, R9, log 2, log 29). The configuration and the seed are the
model's choices (log 2, log 3), and so is which parameters are legal (log 29). -/
def Obligations.ResetMeetsInv : Prop :=
  State.reset.Inv ∧
  resetBlock { groups := [[⟨"warrior0", [0xCC], 0x400⟩], [⟨"warrior1", [0xCC], 0x2000⟩]] } = some State.reset ∧
  State.reset.params = {
    regWidth := 16, paragraphSize := 16, addressWidth := 20, memorySize := 2 ^ 20, arenaSegment := 0x1000,
    arenaSize := 0x10000, arenaFill := 0xCC, backgroundFill := 0x00, stackSize := 2048, sharedSize := 1024,
    maxWarriorSize := 512, minGap := 1024, maxLoadingTries := 100, maxRegions := 16, permRead := 1, permWrite := 2,
    permExec := 4, decelerationRounds := 5, maxSpeed := 16, maxRound := 200000, shiftCountMask := 0x1F,
    nrgOverflow := .saturate, seed := State.reset.params.seed }

/-- Whatever configuration reset accepts, the state after it has the configuration's parameters and meets the
invariant (70_reset_and_hazards.md, 00_scope.md, R9, R480, R490). -/
def Obligations.EveryResetMeetsInv : Prop :=
  ∀ (c : ResetConfig) (s : State), resetBlock c = some s → s.params = c.params ∧ s.Inv

/-- A step answers a next state exactly until the war has ended; after the end the block does nothing
(60_exceptions.md, R448, R498, log 9). That nothing more happens is R448 and R498; that step answers the fault
warEnded for it is the model's choice: log 9. -/
def Obligations.StepGoesOnUntilTheEnd : Prop :=
  ∀ s : State, s.Inv →
    (s.endReason = none → ∃ t, step s = .next t) ∧
    (s.endReason ≠ none → step s = .fault .warEnded)

/-- No step changes a parameter, a permission table, a warrior record or a dead hart, or raises a bomb counter
(10_state.md, 00_scope.md, R34, R35, R36, R37, R45, log 17, log 29). R35 and U28 leave a dead hart's registers
unobservable: that they stay is log 17. -/
def Obligations.StepKeepsPermanentState : Prop :=
  ∀ s t : State, step s = .next t →
    t.params = s.params ∧ t.harts.length = s.harts.length ∧
    ∀ (w : Nat) (g : Hart), s.harts[w]? = some g → ∃ g', t.harts[w]? = some g' ∧
      g'.perm = g.perm ∧ g'.info = g.info ∧ (g.alive = false → g' = g) ∧
      g'.bomb0 ≤ g.bomb0 ∧ g'.bomb1 ≤ g.bomb1 ∧ g'.bomb2 ≤ g.bomb2

/-- A step changes no hart but the one whose turn it is (10_state.md, R20, R434, R443). -/
def Obligations.StepChangesOneHart : Prop :=
  ∀ s t : State, step s = .next t → ∀ w, w ≠ s.turn → t.harts[w]? = s.harts[w]?

/-- No step changes a byte of memory that the hart whose turn it is may not write (20_memory.md, R76, R84). -/
def Obligations.UnwritableBytesStay : Prop :=
  ∀ (s t : State) (h : Hart), s.Running h → step s = .next t →
    ∀ L, allowed s.params h.perm L .write = false → t.mem.read s.params L = s.mem.read s.params L

/-- Every byte a step changes has its write event, and every write event is of a byte the hart may write
(20_memory.md, R76, R81). -/
def Obligations.WritesAreEvents : Prop :=
  ∀ (s t : State) (h : Hart), s.Running h → step s = .next t →
    ∃ new, t.events = new ++ s.events ∧
      (∀ L, t.mem.read s.params L ≠ s.mem.read s.params L → Event.write L ∈ new) ∧
      ∀ L, Event.write L ∈ new → allowed s.params h.perm L .write = true

/-- Frame of the general registers: an instruction changes only its destinations and what its rule moves (10_state.md,
40_alu.md, 41_mov_data.md, 42_incdec_stack.md, 44_string.md, 45_unary_muldiv.md, 46_control.md). -/
def Obligations.RegisterFrame : Prop :=
  ∀ (i : Instr) (s t : State) (h g : Hart), i.wf = true → s.Running h → exec i s = .next t → t.Running g →
    (∀ r : Reg16, i.writes16 r = false → (∀ b : Reg8, b.wide = r → i.writes8 b = false) → g.get16 r = h.get16 r) ∧
    (∀ b : Reg8, i.writes8 b = false → g.get8 b = h.get8 b)

/-- Frame of the segment registers and of IP (10_state.md, R28, R32). -/
def Obligations.SegmentAndIpFrame : Prop :=
  ∀ (i : Instr) (s t : State) (h g : Hart), i.wf = true → s.Running h → exec i s = .next t → t.Running g →
    (∀ r : Sreg, r ∉ i.sregs → g.getSreg r = h.getSreg r) ∧
    (i.transfers = false → g.IP = h.IP)

/-- Frame of FLAGS: an instruction changes only the bits the summary of flags gives it (10_state.md, R48,
47_flag_ops.md). -/
def Obligations.FlagFrame : Prop :=
  ∀ (i : Instr) (s t : State) (h g : Hart), i.wf = true → s.Running h → exec i s = .next t → t.Running g →
    g.flags.toWord &&& ~~~i.flagMask = h.flags.toWord &&& ~~~i.flagMask

/-- Frame of memory: an instruction changes no byte but those at the addresses it stores to (20_memory.md, R76, R77,
R118, R231, R290, R402, R403). -/
def Obligations.MemoryFrame : Prop :=
  ∀ (i : Instr) (s t : State) (h : Hart), i.wf = true → s.Running h → exec i s = .next t →
    ∀ L, L ∉ (i.stores (s.cpu h)).map (lin s.params) → t.mem.read s.params L = s.mem.read s.params L

/-- Frame of the rest: Energy, bomb counters, table, record, the other harts and the scheduler (10_state.md, R33, R34,
R40, R434, R439). -/
def Obligations.OtherStateFrame : Prop :=
  ∀ (i : Instr) (s t : State) (h g : Hart), i.wf = true → s.Running h → exec i s = .next t → t.Running g →
    (i ≠ .nrg → g.energy = h.energy) ∧ (i ≠ .int86 → g.bomb0 = h.bomb0) ∧ (i ≠ .int87 → g.bomb1 = h.bomb1) ∧
    (i ≠ .int88 → g.bomb2 = h.bomb2) ∧ g.perm = h.perm ∧ g.info = h.info ∧
    (∀ w, w ≠ s.turn → t.harts[w]? = s.harts[w]?) ∧
    t.params = s.params ∧ t.round = s.round ∧ t.turn = s.turn ∧ t.phase = s.phase ∧ t.abort = s.abort ∧ t.endReason = s.endReason ∧
    t.drawCount = s.drawCount ∧
    ((g.alive = h.alive ∧ t.aliveCount = s.aliveCount ∧ t.deathCount = s.deathCount) ∨
     (g.alive = false ∧ t.aliveCount = s.aliveCount - 1 ∧ t.deathCount = s.deathCount + 1))

/-- ADD OR ADC SBB AND SUB XOR CMP TEST, byte forms: the operation on the operands, flags and destination written
(40_alu.md, R170, R171, R180, R182). -/
def Obligations.AluByteForms : Prop :=
  ∀ (s : State) (h : Hart), s.Running h →
    let c := s.cpu h
    (∀ p ∈ ([(.add, .addEbGb), (.or, .orEbGb), (.adc, .adcEbGb), (.sbb, .sbbEbGb), (.and, .andEbGb),
       (.sub, .subEbGb), (.xor, .xorEbGb), (.cmp, .cmpEbGb), (.test, .testEbGb)] : List (AluOp × (Rm8 → Reg8 → Instr))), ∀ rm r, c.Readable8 rm → (p.1.writes = true → c.Writable8 rm) →
      exec (p.2 rm r) s = .next (s.commit (c.alu8 p.1 rm (c.readRm8 rm) (h.get8 r)))) ∧
    (∀ p ∈ ([(.add, .addGbEb), (.or, .orGbEb), (.adc, .adcGbEb), (.sbb, .sbbGbEb), (.and, .andGbEb),
       (.sub, .subGbEb), (.xor, .xorGbEb), (.cmp, .cmpGbEb)] : List (AluOp × (Reg8 → Rm8 → Instr))), ∀ r rm, c.Readable8 rm →
      exec (p.2 r rm) s = .next (s.commit (c.alu8 p.1 (.reg r) (h.get8 r) (c.readRm8 rm)))) ∧
    (∀ p ∈ ([(.add, .addAlImm8), (.or, .orAlImm8), (.adc, .adcAlImm8), (.sbb, .sbbAlImm8), (.and, .andAlImm8),
       (.sub, .subAlImm8), (.xor, .xorAlImm8), (.cmp, .cmpAlImm8), (.test, .testAlImm8)] : List (AluOp × (Byte → Instr))), ∀ imm,
      exec (p.2 imm) s = .next (s.commit (c.alu8 p.1 (.reg .AL) (h.get8 .AL) imm))) ∧
    (∀ p ∈ ([(.add, .addEbImm8), (.or, .orEbImm8), (.adc, .adcEbImm8), (.sbb, .sbbEbImm8), (.and, .andEbImm8),
       (.sub, .subEbImm8), (.xor, .xorEbImm8), (.cmp, .cmpEbImm8), (.test, .testEbImm8)] : List (AluOp × (Rm8 → Byte → Instr))), ∀ rm imm, c.Readable8 rm → (p.1.writes = true → c.Writable8 rm) →
      exec (p.2 rm imm) s = .next (s.commit (c.alu8 p.1 rm (c.readRm8 rm) imm)))

/-- ADD OR ADC SBB AND SUB XOR CMP TEST, word forms: the operation on the operands, flags and destination written
(40_alu.md, R170, R171, R180, R181, R182). -/
def Obligations.AluWordForms : Prop :=
  ∀ (s : State) (h : Hart), s.Running h →
    let c := s.cpu h
    (∀ p ∈ ([(.add, .addEwGw), (.or, .orEwGw), (.adc, .adcEwGw), (.sbb, .sbbEwGw), (.and, .andEwGw),
       (.sub, .subEwGw), (.xor, .xorEwGw), (.cmp, .cmpEwGw), (.test, .testEwGw)] : List (AluOp × (Rm16 → Reg16 → Instr))), ∀ rm r, c.Readable16 rm → (p.1.writes = true → c.Writable16 rm) →
      exec (p.2 rm r) s = .next (s.commit (c.alu16 p.1 rm (c.readRm16 rm) (h.get16 r)))) ∧
    (∀ p ∈ ([(.add, .addGwEw), (.or, .orGwEw), (.adc, .adcGwEw), (.sbb, .sbbGwEw), (.and, .andGwEw),
       (.sub, .subGwEw), (.xor, .xorGwEw), (.cmp, .cmpGwEw)] : List (AluOp × (Reg16 → Rm16 → Instr))), ∀ r rm, c.Readable16 rm →
      exec (p.2 r rm) s = .next (s.commit (c.alu16 p.1 (.reg r) (h.get16 r) (c.readRm16 rm)))) ∧
    (∀ p ∈ ([(.add, .addAxImm16), (.or, .orAxImm16), (.adc, .adcAxImm16), (.sbb, .sbbAxImm16), (.and, .andAxImm16),
       (.sub, .subAxImm16), (.xor, .xorAxImm16), (.cmp, .cmpAxImm16), (.test, .testAxImm16)] : List (AluOp × (Word → Instr))), ∀ imm,
      exec (p.2 imm) s = .next (s.commit (c.alu16 p.1 (.reg .AX) h.AX imm))) ∧
    (∀ p ∈ ([(.add, .addEwImm16), (.or, .orEwImm16), (.adc, .adcEwImm16), (.sbb, .sbbEwImm16), (.and, .andEwImm16),
       (.sub, .subEwImm16), (.xor, .xorEwImm16), (.cmp, .cmpEwImm16), (.test, .testEwImm16)] : List (AluOp × (Rm16 → Word → Instr))), ∀ rm imm, c.Readable16 rm → (p.1.writes = true → c.Writable16 rm) →
      exec (p.2 rm imm) s = .next (s.commit (c.alu16 p.1 rm (c.readRm16 rm) imm))) ∧
    (∀ p ∈ ([(.add, .addEwSimm8), (.or, .orEwSimm8), (.adc, .adcEwSimm8), (.sbb, .sbbEwSimm8), (.and, .andEwSimm8),
       (.sub, .subEwSimm8), (.xor, .xorEwSimm8), (.cmp, .cmpEwSimm8)] : List (AluOp × (Rm16 → Byte → Instr))), ∀ rm imm, c.Readable16 rm → (p.1.writes = true → c.Writable16 rm) →
      exec (p.2 rm imm) s = .next (s.commit (c.alu16 p.1 rm (c.readRm16 rm) (imm.signExtend 16))))

/-- What the ALU operations compute: sum, difference, bit operations; carry and borrow; signed overflow; sign, zero,
parity (00_scope.md, R16, R172, R173, R174, R175, R176, R177, R178). -/
def Obligations.AluResults : Prop :=
  ∀ n, n = 8 ∨ n = 16 → ∀ (a b : BitVec n) (f : Flags) (u : Word),
    (AluOp.add.apply a b f u).1 = a + b ∧
    (AluOp.adc.apply a b f u).1 = a + b + BitVec.ofNat n f.CF.toNat ∧
    (AluOp.sub.apply a b f u).1 = a - b ∧
    (AluOp.sbb.apply a b f u).1 = a - b - BitVec.ofNat n f.CF.toNat ∧
    (AluOp.or.apply a b f u).1 = a ||| b ∧ (AluOp.and.apply a b f u).1 = a &&& b ∧
    (AluOp.xor.apply a b f u).1 = a ^^^ b ∧
    AluOp.cmp.apply a b f u = AluOp.sub.apply a b f u ∧ AluOp.test.apply a b f u = AluOp.and.apply a b f u ∧
    (∀ p ∈ ([(.add, false), (.adc, f.CF)] : List (AluOp × Bool)),
      let g := (p.1.apply a b f u).2
      (g.CF = true ↔ 2 ^ n ≤ a.toNat + b.toNat + p.2.toNat) ∧
      (g.OF = true ↔ a.toInt + b.toInt + p.2.toNat < -2 ^ (n - 1) ∨ 2 ^ (n - 1) ≤ a.toInt + b.toInt + p.2.toNat) ∧
      (g.AF = true ↔ 16 ≤ a.toNat % 16 + b.toNat % 16 + p.2.toNat)) ∧
    (∀ p ∈ ([(.sub, false), (.sbb, f.CF)] : List (AluOp × Bool)),
      let g := (p.1.apply a b f u).2
      (g.CF = true ↔ a.toNat < b.toNat + p.2.toNat) ∧
      (g.OF = true ↔ a.toInt - b.toInt - p.2.toNat < -2 ^ (n - 1) ∨ 2 ^ (n - 1) ≤ a.toInt - b.toInt - p.2.toNat) ∧
      (g.AF = true ↔ a.toNat % 16 < b.toNat % 16 + p.2.toNat)) ∧
    (∀ op ∈ ([.or, .and, .xor] : List AluOp),
      let g := (op.apply a b f u).2
      g.CF = false ∧ g.OF = false ∧ g.AF = u.getLsbD 4) ∧
    (∀ op : AluOp,
      let r := (op.apply a b f u).1
      let g := (op.apply a b f u).2
      g.SF = r.msb ∧ (g.ZF = true ↔ r = 0) ∧
      (g.PF = true ↔ ((List.range 8).countP fun k => r.getLsbD k) % 2 = 0) ∧
      g.toWord &&& ~~~(0x08D5 : Word) = f.toWord &&& ~~~(0x08D5 : Word))

/-- INC, DEC, NOT, NEG: result and flags; CF stays in INC and DEC, no flag changes in NOT (42_incdec_stack.md,
45_unary_muldiv.md, R233, R234, R312, R313). -/
def Obligations.OneOperandForms : Prop :=
  ∀ (s : State) (h : Hart), s.Running h →
    let c := s.cpu h
    (∀ rm, c.Readable8 rm → c.Writable8 rm →
      exec (.incEb rm) s = .next (s.commit ((c.setFlags (h.flags.setIncDec (addN (c.readRm8 rm) 1 false))).writeRm8 rm
        (c.readRm8 rm + 1))) ∧
      exec (.decEb rm) s = .next (s.commit ((c.setFlags (h.flags.setIncDec (subN (c.readRm8 rm) 1 false))).writeRm8 rm
        (c.readRm8 rm - 1))) ∧
      exec (.notEb rm) s = .next (s.commit (c.writeRm8 rm (~~~c.readRm8 rm))) ∧
      exec (.negEb rm) s = .next (s.commit ((c.setFlags (h.flags.setArith (subN 0 (c.readRm8 rm) false))).writeRm8 rm
        (0 - c.readRm8 rm)))) ∧
    (∀ rm, c.Readable16 rm → c.Writable16 rm →
      exec (.incEw rm) s = .next (s.commit ((c.setFlags (h.flags.setIncDec (addN (c.readRm16 rm) 1 false))).writeRm16 rm
        (c.readRm16 rm + 1))) ∧
      exec (.decEw rm) s = .next (s.commit ((c.setFlags (h.flags.setIncDec (subN (c.readRm16 rm) 1 false))).writeRm16 rm
        (c.readRm16 rm - 1))) ∧
      exec (.notEw rm) s = .next (s.commit (c.writeRm16 rm (~~~c.readRm16 rm))) ∧
      exec (.negEw rm) s = .next (s.commit ((c.setFlags (h.flags.setArith (subN 0 (c.readRm16 rm) false))).writeRm16 rm
        (0 - c.readRm16 rm)))) ∧
    (∀ r,
      exec (.incReg16 r) s = .next (s.commit ((c.setFlags (h.flags.setIncDec (addN (h.get16 r) 1 false))).writeRm16
        (.reg r) (h.get16 r + 1))) ∧
      exec (.decReg16 r) s = .next (s.commit ((c.setFlags (h.flags.setIncDec (subN (h.get16 r) 1 false))).writeRm16
        (.reg r) (h.get16 r - 1))))

/-- PUSH and POP in every form, PUSHF and POPF: the word at the new top, SP two lower; the word popped, SP two higher
(42_incdec_stack.md, 47_flag_ops.md, R231, R232, R235, R236, R237, R238, R239, R240, R241, R391). -/
def Obligations.PushesAndPops : Prop :=
  ∀ (s : State) (h : Hart), s.Running h →
    let c := s.cpu h
    (c.CanPush 1 →
      (∀ r, exec (.pushReg16 r) s = .next (s.commit (c.push (h.get16 r)))) ∧
      (∀ imm, exec (.pushImm16 imm) s = .next (s.commit (c.push imm))) ∧
      (∀ imm, exec (.pushSimm8 imm) s = .next (s.commit (c.push (imm.signExtend 16)))) ∧
      (∀ rm, c.Readable16 rm → exec (.pushEw rm) s = .next (s.commit (c.push (c.readRm16 rm)))) ∧
      exec .pushEs s = .next (s.commit (c.push h.ES)) ∧ exec .pushCs s = .next (s.commit (c.push h.CS)) ∧
      exec .pushSs s = .next (s.commit (c.push h.SS)) ∧ exec .pushDs s = .next (s.commit (c.push h.DS)) ∧
      exec .pushf s = .next (s.commit (c.push h.flags.toWord))) ∧
    (c.CanPop 1 →
      (∀ r, exec (.popReg16 r) s = .next (s.commit (c.setHart ((h.popped 1).set16 r (c.stackWord 0))))) ∧
      (∀ rm, c.Writable16 rm →
        exec (.popEw rm) s = .next (s.commit ((c.setHart (h.popped 1)).writeRm16 rm (c.stackWord 0)))) ∧
      exec .popEs s = .next (s.commit (c.setHart { h.popped 1 with ES := c.stackWord 0 })) ∧
      exec .popSs s = .next (s.commit (c.setHart { h.popped 1 with SS := c.stackWord 0 })) ∧
      exec .popDs s = .next (s.commit (c.setHart { h.popped 1 with DS := c.stackWord 0 })) ∧
      exec .popf s = .next (s.commit (c.setHart { h.popped 1 with flags := Flags.ofWord (c.stackWord 0) })))

/-- PUSHA pushes the eight registers with the old SP; POPA pops seven and skips the saved SP unread
(42_incdec_stack.md, R242, R243). -/
def Obligations.PushAllPopAll : Prop :=
  ∀ (s : State) (h : Hart), s.Running h →
    let c := s.cpu h
    (c.CanPush 8 →
      exec .pusha s = .next (s.commit
        ((((((((c.push h.AX).push h.CX).push h.DX).push h.BX).push h.SP).push h.BP).push h.SI).push h.DI))) ∧
    ((∀ k, k < 8 → k ≠ 3 → c.CanRead16 (h.popSlot k)) →
      exec .popa s = .next (s.commit (c.setHart { h with
        DI := c.stackWord 0, SI := c.stackWord 1, BP := c.stackWord 2, BX := c.stackWord 4, DX := c.stackWord 5,
        CX := c.stackWord 6, AX := c.stackWord 7, SP := h.SP + 16 })))

/-- ENTER builds a frame at every nesting level, LEAVE removes it (42_incdec_stack.md, R244, R245). -/
def Obligations.EnterAndLeave : Prop :=
  ∀ (s : State) (h : Hart), s.Running h →
    let c := s.cpu h
    (∀ (size : Word) (level : Byte),
      c.CanPush (1 + level.toNat % 32) →
      (∀ k, k + 1 < level.toNat % 32 → c.CanRead16 ⟨h.SS, h.BP - BitVec.ofNat 16 (2 * (k + 1))⟩) →
      exec (.enterImm16Imm8 size level) s = .next (s.commit (c.entered size level)) ∧
      (level.toNat % 32 = 0 →
        c.entered size level =
          (c.push h.BP).setHart { h with BP := h.SP - 2, SP := h.SP - 2 - size })) ∧
    (c.CanRead16 ⟨h.SS, h.BP⟩ →
      exec .leave s = .next (s.commit (c.setHart { h with SP := h.BP + 2, BP := c.wordAt ⟨h.SS, h.BP⟩ })))

/-- MOV in every form: the source value in the destination, nothing else (41_mov_data.md, R201, R202, R203, R204,
R205, R206, R207). -/
def Obligations.Moves : Prop :=
  ∀ (s : State) (h : Hart), s.Running h →
    let c := s.cpu h
    (∀ rm r, c.Writable8 rm → exec (.movEbGb rm r) s = .next (s.commit (c.writeRm8 rm (h.get8 r)))) ∧
    (∀ rm r, c.Writable16 rm → exec (.movEwGw rm r) s = .next (s.commit (c.writeRm16 rm (h.get16 r)))) ∧
    (∀ r rm, c.Readable8 rm → exec (.movGbEb r rm) s = .next (s.commit (c.setHart (h.set8 r (c.readRm8 rm))))) ∧
    (∀ r rm, c.Readable16 rm → exec (.movGwEw r rm) s = .next (s.commit (c.setHart (h.set16 r (c.readRm16 rm))))) ∧
    (∀ r imm, exec (.movReg8Imm8 r imm) s = .next (s.commit (c.setHart (h.set8 r imm)))) ∧
    (∀ r imm, exec (.movReg16Imm16 r imm) s = .next (s.commit (c.setHart (h.set16 r imm)))) ∧
    (∀ rm imm, c.Writable8 rm → exec (.movEbImm8 rm imm) s = .next (s.commit (c.writeRm8 rm imm))) ∧
    (∀ rm imm, c.Writable16 rm → exec (.movEwImm16 rm imm) s = .next (s.commit (c.writeRm16 rm imm))) ∧
    (∀ o, c.CanRead8 ⟨h.DS, o⟩ →
      exec (.movAlMoffs16 o) s = .next (s.commit (c.setHart (h.set8 .AL (c.byteAt ⟨h.DS, o⟩))))) ∧
    (∀ o, c.CanRead16 ⟨h.DS, o⟩ →
      exec (.movAxMoffs16 o) s = .next (s.commit (c.setHart { h with AX := c.wordAt ⟨h.DS, o⟩ }))) ∧
    (∀ o, c.CanWrite8 ⟨h.DS, o⟩ → exec (.movMoffs16Al o) s = .next (s.commit (c.store8 ⟨h.DS, o⟩ (h.get8 .AL)))) ∧
    (∀ o, c.CanWrite16 ⟨h.DS, o⟩ → exec (.movMoffs16Ax o) s = .next (s.commit (c.store16 ⟨h.DS, o⟩ h.AX))) ∧
    (∀ rm sr, c.Writable16 rm →
      exec (.movEwSw rm sr) s = .next (s.commit (c.writeRm16 rm (h.getSreg (sregOfIndex sr))))) ∧
    (∀ sr rm, c.Readable16 rm →
      exec (.movSwEw sr rm) s = .next (s.commit (c.setHart (h.setSreg (sregOfIndex sr) (c.readRm16 rm))))) ∧
    (∀ sr : BitVec 3, sregOfIndex sr = if sr = 0 ∨ sr = 4 then .ES else if sr = 1 ∨ sr = 5 then .CS
      else if sr = 2 ∨ sr = 6 then .SS else .DS)

/-- XCHG, NOP, LEA, XLAT, CBW, CWD, LES, LDS (41_mov_data.md, R208, R209, R210, R211, R212, R213, R214, R215). -/
def Obligations.ExchangesAndPointers : Prop :=
  ∀ (s : State) (h : Hart), s.Running h →
    let c := s.cpu h
    (∀ r rm, c.Readable8 rm → c.Writable8 rm →
      let d := c.writeRm8 rm (h.get8 r)
      exec (.xchgGbEb r rm) s = .next (s.commit (d.setHart (d.hart.set8 r (c.readRm8 rm))))) ∧
    (∀ r rm, c.Readable16 rm → c.Writable16 rm →
      let d := c.writeRm16 rm (h.get16 r)
      exec (.xchgGwEw r rm) s = .next (s.commit (d.setHart (d.hart.set16 r (c.readRm16 rm))))) ∧
    (∀ r, exec (.xchgAxReg16 r) s =
      .next (s.commit (c.setHart (Hart.set16 { h with AX := h.get16 r } r h.AX)))) ∧
    exec .nop s = .next s ∧
    (∀ r m, exec (.leaGwM r m) s = .next (s.commit (c.setHart (h.set16 r (h.ea m).off)))) ∧
    (c.CanRead8 ⟨h.DS, h.BX + (h.get8 .AL).setWidth 16⟩ →
      exec .xlat s = .next (s.commit (c.setHart (h.set8 .AL (c.byteAt ⟨h.DS, h.BX + (h.get8 .AL).setWidth 16⟩))))) ∧
    exec .cbw s = .next (s.commit (c.setHart { h with AX := (h.get8 .AL).signExtend 16 })) ∧
    exec .cwd s = .next (s.commit (c.setHart { h with DX := (h.AX.signExtend 32).extractLsb' 16 16 })) ∧
    (∀ r m, c.CanRead16 (h.ea m) → c.CanRead16 (addOffset (h.ea m) 2) →
      exec (.lesGwM r m) s = .next (s.commit (c.setHart
        { h.set16 r (c.wordAt (h.ea m)) with ES := c.wordAt (addOffset (h.ea m) 2) })) ∧
      exec (.ldsGwM r m) s = .next (s.commit (c.setHart
        { h.set16 r (c.wordAt (h.ea m)) with DS := c.wordAt (addOffset (h.ea m) 2) })))

/-- ROL ROR RCL RCR SHL SHR SAR by 1, CL or imm8: nothing for a masked count of 0, else result, CF, OF and the flags
(43_shift_rotate.md, R270, R271). -/
def Obligations.ShiftForms : Prop :=
  ∀ (s : State) (h : Hart), s.Running h →
    let c := s.cpu h
    (∀ p ∈ ([(.rol, .rolEbImm8), (.ror, .rorEbImm8), (.rcl, .rclEbImm8), (.rcr, .rcrEbImm8), (.shl, .shlEbImm8),
       (.shr, .shrEbImm8), (.sar, .sarEbImm8)] : List (ShiftOp × (Rm8 → Byte → Instr))), ∀ rm imm, c.Readable8 rm → (maskedCount s.params imm ≠ 0 → c.Writable8 rm) →
      exec (p.2 rm imm) s = .next (s.commit (c.shift8 p.1 imm rm))) ∧
    (∀ p ∈ ([(.rol, .rolEwImm8), (.ror, .rorEwImm8), (.rcl, .rclEwImm8), (.rcr, .rcrEwImm8), (.shl, .shlEwImm8),
       (.shr, .shrEwImm8), (.sar, .sarEwImm8)] : List (ShiftOp × (Rm16 → Byte → Instr))), ∀ rm imm, c.Readable16 rm → (maskedCount s.params imm ≠ 0 → c.Writable16 rm) →
      exec (p.2 rm imm) s = .next (s.commit (c.shift16 p.1 imm rm))) ∧
    (∀ p ∈ ([(.rol, .rolEb1), (.ror, .rorEb1), (.rcl, .rclEb1), (.rcr, .rcrEb1), (.shl, .shlEb1), (.shr, .shrEb1),
       (.sar, .sarEb1)] : List (ShiftOp × (Rm8 → Instr))), ∀ rm, c.Readable8 rm → c.Writable8 rm →
      exec (p.2 rm) s = .next (s.commit (c.shift8 p.1 1 rm))) ∧
    (∀ p ∈ ([(.rol, .rolEw1), (.ror, .rorEw1), (.rcl, .rclEw1), (.rcr, .rcrEw1), (.shl, .shlEw1), (.shr, .shrEw1),
       (.sar, .sarEw1)] : List (ShiftOp × (Rm16 → Instr))), ∀ rm, c.Readable16 rm → c.Writable16 rm →
      exec (p.2 rm) s = .next (s.commit (c.shift16 p.1 1 rm))) ∧
    (∀ p ∈ ([(.rol, .rolEbCl), (.ror, .rorEbCl), (.rcl, .rclEbCl), (.rcr, .rcrEbCl), (.shl, .shlEbCl),
       (.shr, .shrEbCl), (.sar, .sarEbCl)] : List (ShiftOp × (Rm8 → Instr))), ∀ rm, c.Readable8 rm → (maskedCount s.params (h.get8 .CL) ≠ 0 → c.Writable8 rm) →
      exec (p.2 rm) s = .next (s.commit (c.shift8 p.1 (h.get8 .CL) rm))) ∧
    (∀ p ∈ ([(.rol, .rolEwCl), (.ror, .rorEwCl), (.rcl, .rclEwCl), (.rcr, .rcrEwCl), (.shl, .shlEwCl),
       (.shr, .shrEwCl), (.sar, .sarEwCl)] : List (ShiftOp × (Rm16 → Instr))), ∀ rm, c.Readable16 rm → (maskedCount s.params (h.get8 .CL) ≠ 0 → c.Writable16 rm) →
      exec (p.2 rm) s = .next (s.commit (c.shift16 p.1 (h.get8 .CL) rm))) ∧
    (∀ raw : Byte, maskedCount s.params raw = (raw &&& s.params.shiftCountMask).toNat) ∧
    (∀ raw : Byte, maskedCount Config.hardware raw = raw.toNat % 32)

/-- What the shifts and rotates compute, at both widths and for every count (43_shift_rotate.md, R272, R273, R274,
R275, R276, R277, R278). -/
def Obligations.ShiftResults : Prop :=
  ∀ n, n = 8 ∨ n = 16 → ∀ (v : BitVec n) (cf : Bool) (k : Nat),
    (shiftRepeat .shl k v cf).1 = v <<< k ∧
    (shiftRepeat .shr k v cf).1 = v >>> k ∧
    (shiftRepeat .sar k v cf).1 = v.sshiftRight k ∧
    (shiftRepeat .rol k v cf).1 = v.rotateLeft k ∧
    (shiftRepeat .ror k v cf).1 = v.rotateRight k ∧
    (k ≠ 0 →
      (k ≤ n → (shiftRepeat .shl k v cf).2 = v.getLsbD (n - k)) ∧
      (shiftRepeat .shr k v cf).2 = v.getLsbD (k - 1) ∧
      (shiftRepeat .sar k v cf).2 = (v.sshiftRight (k - 1)).getLsbD 0 ∧
      (shiftRepeat .rol k v cf).2 = (v.rotateLeft k).getLsbD 0 ∧
      (shiftRepeat .ror k v cf).2 = (v.rotateRight k).msb) ∧
    (let p := shiftRepeat .rcl k v cf
     BitVec.ofBool p.2 ++ p.1 = (BitVec.ofBool cf ++ v).rotateLeft k) ∧
    (let p := shiftRepeat .rcr k v cf
     BitVec.ofBool p.2 ++ p.1 = (BitVec.ofBool cf ++ v).rotateRight k)

/-- MOVS, CMPS, STOS, LODS, SCAS, bytes and words, without a prefix (44_string.md, R290, R292, R293, R294, R295,
R296). -/
def Obligations.StringInstructions : Prop :=
  ∀ (s : State) (h : Hart), s.Running h →
    let c := s.cpu h
    (c.CanRead8 ⟨h.DS, h.SI⟩ → c.CanWrite8 ⟨h.ES, h.DI⟩ → exec .movsb s = .next (s.commit c.movsb)) ∧
    (c.CanRead16 ⟨h.DS, h.SI⟩ → c.CanWrite16 ⟨h.ES, h.DI⟩ → exec .movsw s = .next (s.commit c.movsw)) ∧
    (c.CanRead8 ⟨h.DS, h.SI⟩ → c.CanRead8 ⟨h.ES, h.DI⟩ → exec .cmpsb s = .next (s.commit c.cmpsb)) ∧
    (c.CanRead16 ⟨h.DS, h.SI⟩ → c.CanRead16 ⟨h.ES, h.DI⟩ → exec .cmpsw s = .next (s.commit c.cmpsw)) ∧
    (c.CanWrite8 ⟨h.ES, h.DI⟩ → exec .stosb s = .next (s.commit c.stosb)) ∧
    (c.CanWrite16 ⟨h.ES, h.DI⟩ → exec .stosw s = .next (s.commit c.stosw)) ∧
    (c.CanRead8 ⟨h.DS, h.SI⟩ → exec .lodsb s = .next (s.commit c.lodsb)) ∧
    (c.CanRead16 ⟨h.DS, h.SI⟩ → exec .lodsw s = .next (s.commit c.lodsw)) ∧
    (c.CanRead8 ⟨h.ES, h.DI⟩ → exec .scasb s = .next (s.commit c.scasb)) ∧
    (c.CanRead16 ⟨h.ES, h.DI⟩ → exec .scasw s = .next (s.commit c.scasw))

/-- The repeat prefixes: the string instruction for each element, CX down by one each, REPZ and REPNZ stopping on ZF
(44_string.md, R291). -/
def Obligations.RepeatedStrings : Prop :=
  ∀ (s : State) (h : Hart), s.Running h →
    let c := s.cpu h
    ((∀ k, k < h.CX.toNat → c.CanRead8 (h.source 1 k) ∧ c.CanWrite8 (h.target 1 k)) →
      ∀ i ∈ ([.repMovsb, .repnzMovsb] : List Instr),
        exec i s = .next (s.commit (Cpu.repeated Cpu.movsb neverStop h.CX.toNat c))) ∧
    ((∀ k, k < h.CX.toNat → c.CanRead16 (h.source 2 k) ∧ c.CanWrite16 (h.target 2 k)) →
      ∀ i ∈ ([.repMovsw, .repnzMovsw] : List Instr),
        exec i s = .next (s.commit (Cpu.repeated Cpu.movsw neverStop h.CX.toNat c))) ∧
    ((∀ k, k < h.CX.toNat → c.CanWrite8 (h.target 1 k)) →
      ∀ i ∈ ([.repStosb, .repnzStosb] : List Instr),
        exec i s = .next (s.commit (Cpu.repeated Cpu.stosb neverStop h.CX.toNat c))) ∧
    ((∀ k, k < h.CX.toNat → c.CanWrite16 (h.target 2 k)) →
      ∀ i ∈ ([.repStosw, .repnzStosw] : List Instr),
        exec i s = .next (s.commit (Cpu.repeated Cpu.stosw neverStop h.CX.toNat c))) ∧
    ((∀ k, k < h.CX.toNat → c.CanRead8 (h.source 1 k)) →
      ∀ i ∈ ([.repLodsb, .repnzLodsb] : List Instr),
        exec i s = .next (s.commit (Cpu.repeated Cpu.lodsb neverStop h.CX.toNat c))) ∧
    ((∀ k, k < h.CX.toNat → c.CanRead16 (h.source 2 k)) →
      ∀ i ∈ ([.repLodsw, .repnzLodsw] : List Instr),
        exec i s = .next (s.commit (Cpu.repeated Cpu.lodsw neverStop h.CX.toNat c))) ∧
    ((∀ k, k < h.CX.toNat → c.CanRead8 (h.source 1 k) ∧ c.CanRead8 (h.target 1 k)) →
      ∀ i ∈ ([.repzCmpsb] : List Instr),
        exec i s = .next (s.commit (Cpu.repeated Cpu.cmpsb stopNotZero h.CX.toNat c))) ∧
    ((∀ k, k < h.CX.toNat → c.CanRead8 (h.source 1 k) ∧ c.CanRead8 (h.target 1 k)) →
      ∀ i ∈ ([.repnzCmpsb] : List Instr),
        exec i s = .next (s.commit (Cpu.repeated Cpu.cmpsb stopZero h.CX.toNat c))) ∧
    ((∀ k, k < h.CX.toNat → c.CanRead16 (h.source 2 k) ∧ c.CanRead16 (h.target 2 k)) →
      ∀ i ∈ ([.repzCmpsw] : List Instr),
        exec i s = .next (s.commit (Cpu.repeated Cpu.cmpsw stopNotZero h.CX.toNat c))) ∧
    ((∀ k, k < h.CX.toNat → c.CanRead16 (h.source 2 k) ∧ c.CanRead16 (h.target 2 k)) →
      ∀ i ∈ ([.repnzCmpsw] : List Instr),
        exec i s = .next (s.commit (Cpu.repeated Cpu.cmpsw stopZero h.CX.toNat c))) ∧
    ((∀ k, k < h.CX.toNat → c.CanRead8 (h.target 1 k)) →
      ∀ i ∈ ([.repzScasb] : List Instr),
        exec i s = .next (s.commit (Cpu.repeated Cpu.scasb stopNotZero h.CX.toNat c))) ∧
    ((∀ k, k < h.CX.toNat → c.CanRead8 (h.target 1 k)) →
      ∀ i ∈ ([.repnzScasb] : List Instr),
        exec i s = .next (s.commit (Cpu.repeated Cpu.scasb stopZero h.CX.toNat c))) ∧
    ((∀ k, k < h.CX.toNat → c.CanRead16 (h.target 2 k)) →
      ∀ i ∈ ([.repzScasw] : List Instr),
        exec i s = .next (s.commit (Cpu.repeated Cpu.scasw stopNotZero h.CX.toNat c))) ∧
    ((∀ k, k < h.CX.toNat → c.CanRead16 (h.target 2 k)) →
      ∀ i ∈ ([.repnzScasw] : List Instr),
        exec i s = .next (s.commit (Cpu.repeated Cpu.scasw stopZero h.CX.toNat c)))

/-- REP STOSB fills exactly CX bytes from ES:DI with AL and leaves CX 0 and DI past them (44_string.md, R291, R294).
-/
def Obligations.RepStosFills : Prop :=
  ∀ (s t : State) (h g : Hart), s.Running h → h.flags.DF = false →
    (∀ k, k < h.CX.toNat → (s.cpu h).CanWrite8 ⟨h.ES, h.DI + BitVec.ofNat 16 k⟩) →
    exec .repStosb s = .next t → t.Running g →
    g = { h with CX := 0, DI := h.DI + h.CX } ∧
    (∀ k, k < h.CX.toNat → t.mem.read s.params (lin s.params ⟨h.ES, h.DI + BitVec.ofNat 16 k⟩) = h.get8 .AL) ∧
    (∀ L, (∀ k, k < h.CX.toNat → L ≠ lin s.params ⟨h.ES, h.DI + BitVec.ofNat 16 k⟩) →
      t.mem.read s.params L = s.mem.read s.params L)

/-- MUL and IMUL in every form: the exact product, CF and OF saying whether it needs the upper half
(45_unary_muldiv.md, R314, R315, R318). -/
def Obligations.Multiplies : Prop :=
  ∀ (s : State) (h : Hart), s.Running h →
    let c := s.cpu h
    (∀ rm, c.Readable8 rm →
      (∃ p : BitVec 16, p.toNat = (h.get8 .AL).toNat * (c.readRm8 rm).toNat ∧
        exec (.mulEb rm) s = .next (s.commit ((c.setHart { h with AX := p }).mulFlagged (highByte p != 0)))) ∧
      (∃ p : BitVec 16, p.toInt = (h.get8 .AL).toInt * (c.readRm8 rm).toInt ∧
        exec (.imulEb rm) s = .next (s.commit ((c.setHart { h with AX := p }).mulFlagged
          (p != (lowByte p).signExtend 16))))) ∧
    (∀ rm, c.Readable16 rm →
      (∃ p : BitVec 32, p.toNat = h.AX.toNat * (c.readRm16 rm).toNat ∧
        exec (.mulEw rm) s = .next (s.commit ((c.setHart { h with AX := p.extractLsb' 0 16, DX := p.extractLsb' 16 16
          }).mulFlagged (p.extractLsb' 16 16 != 0)))) ∧
      (∃ p : BitVec 32, p.toInt = h.AX.toInt * (c.readRm16 rm).toInt ∧
        exec (.imulEw rm) s = .next (s.commit ((c.setHart { h with AX := p.extractLsb' 0 16, DX := p.extractLsb' 16 16
          }).mulFlagged (p != (p.extractLsb' 0 16).signExtend 32)))) ∧
      (∀ r imm, ∃ p : BitVec 32, p.toInt = (c.readRm16 rm).toInt * imm.toInt ∧
        exec (.imulGwEwImm16 r rm imm) s = .next (s.commit ((c.setHart (h.set16 r (p.extractLsb' 0 16))).mulFlagged
          (p != (p.extractLsb' 0 16).signExtend 32)))) ∧
      (∀ r (imm : Byte), ∃ p : BitVec 32, p.toInt = (c.readRm16 rm).toInt * imm.toInt ∧
        exec (.imulGwEwSimm8 r rm imm) s = .next (s.commit ((c.setHart (h.set16 r (p.extractLsb' 0 16))).mulFlagged
          (p != (p.extractLsb' 0 16).signExtend 32)))))

/-- DIV and IDIV where the quotient fits: quotient and remainder, six flags from UNDEF (45_unary_muldiv.md, R316,
R317). -/
def Obligations.Divides : Prop :=
  ∀ (s : State) (h : Hart), s.Running h →
    let c := s.cpu h
    (∀ rm, c.Readable8 rm → c.readRm8 rm ≠ 0 →
      (∀ q r : Byte, h.AX.toNat = q.toNat * (c.readRm8 rm).toNat + r.toNat → r.toNat < (c.readRm8 rm).toNat →
        exec (.divEb rm) s = .next (s.commit (c.setHart { h with AX := joinBytes r q }).divFlagged)) ∧
      (∀ q r : Byte, q.toInt = h.AX.toInt.tdiv (c.readRm8 rm).toInt → r.toInt = h.AX.toInt.tmod (c.readRm8 rm).toInt →
        exec (.idivEb rm) s = .next (s.commit (c.setHart { h with AX := joinBytes r q }).divFlagged))) ∧
    (∀ rm, c.Readable16 rm → c.readRm16 rm ≠ 0 →
      (∀ q r : Word, (h.DX ++ h.AX).toNat = q.toNat * (c.readRm16 rm).toNat + r.toNat →
        r.toNat < (c.readRm16 rm).toNat →
        exec (.divEw rm) s = .next (s.commit (c.setHart { h with AX := q, DX := r }).divFlagged)) ∧
      (∀ q r : Word, q.toInt = (h.DX ++ h.AX).toInt.tdiv (c.readRm16 rm).toInt →
        r.toInt = (h.DX ++ h.AX).toInt.tmod (c.readRm16 rm).toInt →
        exec (.idivEw rm) s = .next (s.commit (c.setHart { h with AX := q, DX := r }).divFlagged)))

/-- DIV and IDIV kill the hart on a zero divisor or a quotient that does not fit, writing nothing (R435). -/
def Obligations.DivisionFaults : Prop :=
  ∀ (s : State) (h : Hart), s.Running h →
    let c := s.cpu h
    (∀ rm, c.Readable8 rm →
      (exec (.divEb rm) s = .next (s.kill .divisionFault) ↔
        c.readRm8 rm = 0 ∨ 0xFF < h.AX.toNat / (c.readRm8 rm).toNat) ∧
      (exec (.idivEb rm) s = .next (s.kill .divisionFault) ↔
        c.readRm8 rm = 0 ∨ h.AX.toInt.tdiv (c.readRm8 rm).toInt < -128 ∨
          127 < h.AX.toInt.tdiv (c.readRm8 rm).toInt)) ∧
    (∀ rm, c.Readable16 rm →
      (exec (.divEw rm) s = .next (s.kill .divisionFault) ↔
        c.readRm16 rm = 0 ∨ 0xFFFF < (h.DX ++ h.AX).toNat / (c.readRm16 rm).toNat) ∧
      (exec (.idivEw rm) s = .next (s.kill .divisionFault) ↔
        c.readRm16 rm = 0 ∨ (h.DX ++ h.AX).toInt.tdiv (c.readRm16 rm).toInt < -32768 ∨
          32767 < (h.DX ++ h.AX).toInt.tdiv (c.readRm16 rm).toInt))

/-- The sixteen conditional jumps, the LOOPs and JCXZ: IP moved exactly when the condition holds, no flag touched
(46_control.md, R330, R331, R348, R349, R350, R351). -/
def Obligations.ConditionalJumps : Prop :=
  ∀ (s : State) (h : Hart) (rel : Byte), s.Running h →
    let c := s.cpu h
    let there := h.IP + rel.signExtend 16
    (∀ p ∈ ([(fun f => f.OF, .joRel8), (fun f => !f.OF, .jnoRel8), (fun f => f.CF, .jbRel8),
       (fun f => !f.CF, .jnbRel8), (fun f => f.ZF, .jzRel8), (fun f => !f.ZF, .jnzRel8),
       (fun f => f.CF || f.ZF, .jbeRel8), (fun f => !f.CF && !f.ZF, .jaRel8), (fun f => f.SF, .jsRel8),
       (fun f => !f.SF, .jnsRel8), (fun f => f.PF, .jpRel8), (fun f => !f.PF, .jnpRel8),
       (fun f => f.SF != f.OF, .jlRel8), (fun f => f.SF == f.OF, .jgeRel8),
       (fun f => f.ZF || f.SF != f.OF, .jleRel8), (fun f => !f.ZF && f.SF == f.OF, .jgRel8)] : List ((Flags → Bool) × (Byte → Instr))),
      exec (p.2 rel) s = .next (s.commit (if p.1 h.flags then c.setHart { h with IP := there } else c))) ∧
    (∀ p ∈ ([(fun _ => true, .loopRel8), (fun f => f.ZF, .loopzRel8), (fun f => !f.ZF, .loopnzRel8)] :
        List ((Flags → Bool) × (Byte → Instr))),
      exec (p.2 rel) s = .next (s.commit (c.setHart { h with
        CX := h.CX - 1, IP := if h.CX ≠ 1 ∧ p.1 h.flags = true then there else h.IP }))) ∧
    exec (.jcxzRel8 rel) s = .next (s.commit (if h.CX = 0 then c.setHart { h with IP := there } else c))

/-- JMP and CALL in every form: IP (and CS) at the target, the return address pushed by a call (46_control.md, R352,
R353, R354, R355, R356, R357, R358, R359, R360, R361). -/
def Obligations.JumpsAndCalls : Prop :=
  ∀ (s : State) (h : Hart), s.Running h →
    let c := s.cpu h
    (∀ rel, exec (.jmpRel8 rel) s = .next (s.commit (c.setHart { h with IP := h.IP + rel.signExtend 16 }))) ∧
    (∀ rel, exec (.jmpRel16 rel) s = .next (s.commit (c.setHart { h with IP := h.IP + rel }))) ∧
    (∀ o sg, exec (.jmpPtr1616 o sg) s = .next (s.commit (c.setHart { h with CS := sg, IP := o }))) ∧
    (∀ rm, c.Readable16 rm → exec (.jmpEw rm) s = .next (s.commit (c.setHart { h with IP := c.readRm16 rm }))) ∧
    (∀ m, c.CanRead16 (h.ea m) → c.CanRead16 (addOffset (h.ea m) 2) →
      exec (.jmpFarM m) s = .next (s.commit (c.setHart
        { h with CS := c.wordAt (addOffset (h.ea m) 2), IP := c.wordAt (h.ea m) }))) ∧
    (c.CanPush 1 →
      let d := c.push h.IP
      (∀ rel, exec (.callRel16 rel) s = .next (s.commit (d.setHart { d.hart with IP := h.IP + rel }))) ∧
      (∀ rm, c.Readable16 rm →
        exec (.callEw rm) s = .next (s.commit (d.setHart { d.hart with IP := c.readRm16 rm })))) ∧
    (c.CanPush 2 →
      let d := (c.push h.CS).push h.IP
      (∀ o sg, exec (.callPtr1616 o sg) s = .next (s.commit (d.setHart { d.hart with CS := sg, IP := o }))) ∧
      (∀ m, c.CanRead16 (h.ea m) → c.CanRead16 (addOffset (h.ea m) 2) →
        exec (.callFarM m) s = .next (s.commit (d.setHart
          { d.hart with CS := c.wordAt (addOffset (h.ea m) 2), IP := c.wordAt (h.ea m) }))))

/-- RET, RETF with and without a stack adjustment, and IRET: what is popped and where SP ends (46_control.md, R362,
R363, R364, R365, R372). -/
def Obligations.Returns : Prop :=
  ∀ (s : State) (h : Hart), s.Running h →
    let c := s.cpu h
    (c.CanPop 1 →
      exec .ret s = .next (s.commit (c.setHart { h with IP := c.stackWord 0, SP := h.SP + 2 })) ∧
      ∀ n, exec (.retImm16 n) s = .next (s.commit (c.setHart { h with IP := c.stackWord 0, SP := h.SP + 2 + n }))) ∧
    (c.CanPop 2 →
      exec .retf s = .next (s.commit (c.setHart
        { h with IP := c.stackWord 0, CS := c.stackWord 1, SP := h.SP + 4 })) ∧
      ∀ n, exec (.retfImm16 n) s = .next (s.commit (c.setHart
        { h with IP := c.stackWord 0, CS := c.stackWord 1, SP := h.SP + 4 + n }))) ∧
    (c.CanPop 3 →
      exec .iret s = .next (s.commit (c.setHart
        { h with IP := c.stackWord 0, CS := c.stackWord 1, flags := Flags.ofWord (c.stackWord 2), SP := h.SP + 6 })))

/-- INT n, INT3 and INTO: FLAGS, CS, IP pushed, IF and TF cleared, CS:IP from the vector in memory (46_control.md,
R370, R371, R373, R374). -/
def Obligations.Interrupts : Prop :=
  ∀ (s : State) (h : Hart), s.Running h →
    let c := s.cpu h
    (∀ n, c.CanPush 3 → c.CanRead16 ⟨0, BitVec.ofNat 16 (4 * n.toNat)⟩ →
      c.CanRead16 ⟨0, BitVec.ofNat 16 (4 * n.toNat + 2)⟩ →
      let d := ((c.push h.flags.toWord).push h.CS).push h.IP
      let t := s.commit (d.setHart { d.hart with
        flags := { h.flags with IF := false, TF := false },
        IP := d.wordAt ⟨0, BitVec.ofNat 16 (4 * n.toNat)⟩, CS := d.wordAt ⟨0, BitVec.ofNat 16 (4 * n.toNat + 2)⟩ })
      (isVirtualVector n = false → exec (.intImm8 n) s = .next t) ∧
      (n = 3 → exec .int3 s = .next t) ∧
      (n = 4 → h.flags.OF = true → exec .into s = .next t)) ∧
    (h.flags.OF = false → exec .into s = .next s)

/-- An interrupt whose vector the hart may not read kills it with MemoryFault(read), its three pushes standing
(46_control.md, 60_exceptions.md, R370, R431, R439). -/
def Obligations.InterruptWithoutVectorKills : Prop :=
  ∀ (s : State) (h : Hart) (n : Byte), s.Running h →
    let c := s.cpu h
    let L := lin s.params ⟨0, BitVec.ofNat 16 (4 * n.toNat)⟩
    let d := ((c.push h.flags.toWord).push h.CS).push h.IP
    let t := (s.commit (d.setHart { d.hart with flags := { h.flags with IF := false, TF := false } })).kill
      (.memoryFault .read L)
    c.CanPush 3 → allowed s.params h.perm L .read = false →
    (isVirtualVector n = false → exec (.intImm8 n) s = .next t) ∧
    (n = 3 → exec .int3 s = .next t) ∧
    (n = 4 → h.flags.OF = true → exec .into s = .next t)

/-- CLC STC CMC CLD STD CLI STI LAHF SAHF (47_flag_ops.md, R381, R382, R383, R384, R385, R386, R387, R388, R389). -/
def Obligations.FlagInstructions : Prop :=
  ∀ (s : State) (h : Hart), s.Running h →
    let c := s.cpu h
    exec .clc s = .next (s.commit (c.setFlags { h.flags with CF := false })) ∧
    exec .stc s = .next (s.commit (c.setFlags { h.flags with CF := true })) ∧
    exec .cmc s = .next (s.commit (c.setFlags { h.flags with CF := !h.flags.CF })) ∧
    exec .cld s = .next (s.commit (c.setFlags { h.flags with DF := false })) ∧
    exec .std s = .next (s.commit (c.setFlags { h.flags with DF := true })) ∧
    exec .cli s = .next (s.commit (c.setFlags { h.flags with IF := false })) ∧
    exec .sti s = .next (s.commit (c.setFlags { h.flags with IF := true })) ∧
    exec .lahf s = .next (s.commit (c.setHart (h.set8 .AH (lowByte h.flags.toWord)))) ∧
    (∃ f : Flags, exec .sahf s = .next (s.commit (c.setFlags f)) ∧
      f.toWord = (h.flags.toWord &&& ~~~(0x00D5 : Word)) ||| (h.AX >>> 8 &&& 0x00D5))

/-- NRG and the virtual interrupts 0x86 to 0x88, also where a bomb meets a denied byte; that NRG may wrap is the
model's own choice (log 30) (48_game_and_unsupported.md, R400, R401, R402, R403, R404, R439, log 16, log 27, log 30).
That NRG_OVERFLOW may be wrap, and what it does then, is the model's own choice, no rule's: log 30. The effects of
NRG, INT 0x86 and INT 0x87 are decisions of the spec that it calls replaceable (D29, D30, D31): log 16. Of INT 0x88
with Bomb[2] above 0 nothing is claimed (R404, log 27). -/
def Obligations.GameInstructions : Prop :=
  ∀ (s : State) (h : Hart), s.Running h →
    let c := s.cpu h
    (s.params.nrgOverflow = .saturate →
      exec .nrg s = .next (s.commit (c.setHart { h with energy := BitVec.ofNat 16 (min (h.energy.toNat + 1) 0xFFFF) }))) ∧
    (s.params.nrgOverflow = .wrap → exec .nrg s = .next (s.commit (c.setHart { h with energy := h.energy + 1 }))) ∧
    (h.bomb0 = 0 → exec .int86 s = .next s) ∧
    (h.bomb1 = 0 → exec .int87 s = .next s) ∧
    (h.bomb2 = 0 → exec .int88 s = .next s) ∧
    (h.bomb0 ≠ 0 →
      ((∀ k, k < 128 → c.CanWrite16 (h.target 2 k)) →
        exec .int86 s = .next (s.commit (Cpu.bombed 64 (c.setHart { h with bomb0 := h.bomb0 - 1 })))) ∧
      ∀ k, k < 64 → (∀ j, j < 2 * k → c.CanWrite16 (h.target 2 j)) →
        let d := Cpu.bombed k (c.setHart { h with bomb0 := h.bomb0 - 1 })
        (∀ f e, d.writeFault (h.target 2 (2 * k)) [lowByte h.AX, highByte h.AX] = some (f, e) →
          exec .int86 s = .next ((s.commit e).kill f) ∧
          e.hart = { h with bomb0 := h.bomb0 - 1, DI := (h.target 2 (2 * k)).off }) ∧
        (c.CanWrite16 (h.target 2 (2 * k)) →
          ∀ f e, ((d.store16 (h.target 2 (2 * k)) h.AX).setHart (d.hart.stepDi 2)).writeFault
              (h.target 2 (2 * k + 1)) [lowByte h.DX, highByte h.DX] = some (f, e) →
            exec .int86 s = .next ((s.commit e).kill f) ∧
            e.hart = { h with bomb0 := h.bomb0 - 1, DI := (h.target 2 (2 * k + 1)).off })) ∧
    (h.bomb1 ≠ 0 →
      let d := c.setHart { h with bomb1 := h.bomb1 - 1 }
      let place (i : Nat) : Addr := ⟨h.ES, h.DI + BitVec.ofNat 16 i⟩
      ((∀ o, c.CanRead8 ⟨h.ES, o⟩) →
        (c.bombPlace = none → exec .int87 s = .next (s.commit d)) ∧
        (∀ a, c.bombPlace = some a → c.CanWrite16 a → c.CanWrite16 (addOffset a 2) →
          exec .int87 s = .next (s.commit ((d.store16 a h.BX).store16 (addOffset a 2) h.CX)))) ∧
      ∀ i, i < 0x10000 →
        (∀ j, j < i → c.CanRead16 (place j) ∧ (c.wordAt (place j) = h.AX →
          c.CanRead16 (addOffset (place j) 2) ∧ c.wordAt (addOffset (place j) 2) ≠ h.DX)) →
        (∀ f, c.readFault 2 (place i) = some f → exec .int87 s = .next ((s.commit d).kill f)) ∧
        (c.CanRead16 (place i) → c.wordAt (place i) = h.AX →
          (∀ f, c.readFault 2 (addOffset (place i) 2) = some f → exec .int87 s = .next ((s.commit d).kill f)) ∧
          (c.CanRead16 (addOffset (place i) 2) → c.wordAt (addOffset (place i) 2) = h.DX →
            (∀ f e, d.writeFault (place i) [lowByte h.BX, highByte h.BX] = some (f, e) →
              exec .int87 s = .next ((s.commit e).kill f)) ∧
            (c.CanWrite16 (place i) →
              (∀ f e, (d.store16 (place i) h.BX).writeFault (addOffset (place i) 2) [lowByte h.CX, highByte h.CX] =
                some (f, e) → exec .int87 s = .next ((s.commit e).kill f)) ∧
              (c.CanWrite16 (addOffset (place i) 2) →
                exec .int87 s = .next (s.commit
                  ((d.store16 (place i) h.BX).store16 (addOffset (place i) 2) h.CX)))))))

/-- The invalid and the unimplemented encodings kill the hart and do nothing else (48_game_and_unsupported.md,
60_exceptions.md, R410, R418, R432, R433, R434). -/
def Obligations.FaultRowsKill : Prop :=
  ∀ (s : State) (h : Hart), s.Running h → ∀ (i : Instr) (f : HartFault), i.raises = some f →
    exec i s = .next (s.kill f)

/-- A denied operand, push or pop kills the hart, what was done before it standing: bytes and pushes stored, SP as
moved (20_memory.md, 42_incdec_stack.md, 46_control.md, R75, R76, R77, R231, R232, R364, R370, R438, R439). -/
def Obligations.DataFaultsKill : Prop :=
  ∀ (s : State) (h : Hart), s.Running h →
    let c := s.cpu h
    (∀ m : MemOp,
      let a := h.ea m
      (allowed s.params h.perm (lin s.params a) .read = false →
        (∀ r, exec (.movGbEb r (.mem m)) s = .next (s.kill (.memoryFault .read (lin s.params a)))) ∧
        exec (.divEb (.mem m)) s = .next (s.kill (.memoryFault .read (lin s.params a)))) ∧
      (allowed s.params h.perm (lin s.params a) .write = false →
        (∀ r, exec (.movEbGb (.mem m) r) s = .next (s.kill (.memoryFault .write (lin s.params a)))) ∧
        (c.CanRead8 a → ∀ r, exec (.addEbGb (.mem m) r) s = .next ((s.commit (c.setFlags
          (AluOp.add.apply (c.byteAt a) (h.get8 r) h.flags 0).2)).kill (.memoryFault .write (lin s.params a))))) ∧
      (c.CanWrite8 a → allowed s.params h.perm (lin s.params (addOffset a 1)) .write = false →
        ∀ r, exec (.movEwGw (.mem m) r) s = .next ((s.commit (c.store8 a (lowByte (h.get16 r)))).kill
          (.memoryFault .write (lin s.params (addOffset a 1)))))) ∧
    (∀ (r : Reg16) (imm rel size : Word) (b level : Byte), ∀ p ∈ ([(.pushReg16 r, h.get16 r), (.pushImm16 imm, imm),
        (.pushSimm8 b, b.signExtend 16), (.pushEs, h.ES), (.pushCs, h.CS), (.pushSs, h.SS), (.pushDs, h.DS),
        (.pushf, h.flags.toWord), (.pusha, h.AX), (.enterImm16Imm8 size level, h.BP), (.callRel16 rel, h.IP)] : List (Instr × Word)),
      ∀ f e, c.pushFault p.2 = some (f, e) → exec p.1 s = .next ((s.commit e).kill f)) ∧
    (∀ rm, c.Readable16 rm →
      (∀ f e, c.pushFault (c.readRm16 rm) = some (f, e) → exec (.pushEw rm) s = .next ((s.commit e).kill f)) ∧
      (∀ f e, c.pushFault h.IP = some (f, e) → exec (.callEw rm) s = .next ((s.commit e).kill f))) ∧
    (∀ (k : Nat) (v : Word),
      let vs := [h.AX, h.CX, h.DX, h.BX, h.SP, h.BP, h.SI, h.DI]
      vs[k]? = some v → c.CanPush k → ∀ f e, ((vs.take k).foldl Cpu.push c).pushFault v = some (f, e) →
        exec .pusha s = .next ((s.commit e).kill f)) ∧
    (∀ i : Instr, (∃ o sg, i = .callPtr1616 o sg) ∨
        (∃ m, c.CanRead16 (h.ea m) ∧ c.CanRead16 (addOffset (h.ea m) 2) ∧ i = .callFarM m) →
      (∀ f e, c.pushFault h.CS = some (f, e) → exec i s = .next ((s.commit e).kill f)) ∧
      (c.CanPush 1 → ∀ f e, (c.push h.CS).pushFault h.IP = some (f, e) →
        exec i s = .next ((s.commit e).kill f))) ∧
    (∀ i : Instr, (∃ n, isVirtualVector n = false ∧ i = .intImm8 n) ∨ i = .int3 ∨ (h.flags.OF = true ∧ i = .into) →
      let d := (c.push h.flags.toWord).setFlags { h.flags with IF := false, TF := false }
      (∀ f e, c.pushFault h.flags.toWord = some (f, e) → exec i s = .next ((s.commit e).kill f)) ∧
      (c.CanPush 1 → ∀ f e, d.pushFault h.CS = some (f, e) → exec i s = .next ((s.commit e).kill f)) ∧
      (c.CanPush 2 → ∀ f e, (d.push h.CS).pushFault h.IP = some (f, e) →
        exec i s = .next ((s.commit e).kill f))) ∧
    (∀ (r : Reg16) (rm : Rm16) (n : Word), ∀ i ∈ ([.popReg16 r, .popEw rm, .popEs, .popSs, .popDs, .popa, .popf, .ret,
        .retImm16 n, .retf, .retfImm16 n, .iret] : List Instr),
      ∀ f, c.popFault = some f → exec i s = .next (s.kill f)) ∧
    (let d := c.setHart { h with SP := h.BP }
     ∀ f, d.popFault = some f → exec .leave s = .next ((s.commit d).kill f)) ∧
    (c.CanPop 1 →
      (∀ m f e, (c.setHart (h.popped 1)).writeFault (h.ea m) [lowByte (c.stackWord 0), highByte (c.stackWord 0)] =
        some (f, e) → exec (.popEw (.mem m)) s = .next ((s.commit e).kill f)) ∧
      (let d := c.setHart { h.popped 1 with IP := c.stackWord 0 }
       ∀ (n : Word), ∀ i ∈ ([.retf, .retfImm16 n, .iret] : List Instr), ∀ f, d.popFault = some f →
          exec i s = .next ((s.commit d).kill f))) ∧
    (c.CanPop 2 →
      let d := c.setHart { h.popped 2 with IP := c.stackWord 0, CS := c.stackWord 1 }
      ∀ f, d.popFault = some f → exec .iret s = .next ((s.commit d).kill f))

/-- A denied string element kills the hart; of a repeated string the elements before it stand, with CX, SI and DI as
they left them (44_string.md, 20_memory.md, 60_exceptions.md, R77, R291, R292, R293, R294, R295, R296, R438, R439). -/
def Obligations.StringFaultsKill : Prop :=
  ∀ (s : State) (h : Hart), s.Running h →
    (∀ p ∈ ([(.movs, 1, .movsb), (.movs, 2, .movsw), (.cmps, 1, .cmpsb), (.cmps, 2, .cmpsw),
      (.stos, 1, .stosb), (.stos, 2, .stosw), (.lods, 1, .lodsb), (.lods, 2, .lodsw),
      (.scas, 1, .scasb), (.scas, 2, .scasw)] : List (StringOp × Nat × Instr)),
      ∀ f e, (s.cpu h).elementFault p.1 p.2.1 = some (f, e) →
        exec p.2.2 s = .next ((s.commit e).kill f) ∧ e.hart = h ∧
        ((∀ L, f ≠ .memoryFault .write L) → e = s.cpu h)) ∧
    ∀ p ∈ ([(.movs, 1, Cpu.movsb, neverStop, [.repMovsb, .repnzMovsb]),
      (.movs, 2, Cpu.movsw, neverStop, [.repMovsw, .repnzMovsw]),
      (.cmps, 1, Cpu.cmpsb, stopNotZero, [.repzCmpsb]),
      (.cmps, 1, Cpu.cmpsb, stopZero, [.repnzCmpsb]),
      (.cmps, 2, Cpu.cmpsw, stopNotZero, [.repzCmpsw]),
      (.cmps, 2, Cpu.cmpsw, stopZero, [.repnzCmpsw]),
      (.stos, 1, Cpu.stosb, neverStop, [.repStosb, .repnzStosb]),
      (.stos, 2, Cpu.stosw, neverStop, [.repStosw, .repnzStosw]),
      (.lods, 1, Cpu.lodsb, neverStop, [.repLodsb, .repnzLodsb]),
      (.lods, 2, Cpu.lodsw, neverStop, [.repLodsw, .repnzLodsw]),
      (.scas, 1, Cpu.scasb, stopNotZero, [.repzScasb]),
      (.scas, 1, Cpu.scasb, stopZero, [.repnzScasb]),
      (.scas, 2, Cpu.scasw, stopNotZero, [.repzScasw]),
      (.scas, 2, Cpu.scasw, stopZero, [.repnzScasw])] :
        List (StringOp × Nat × (Cpu → Cpu) × (Flags → Bool) × List Instr)),
      let after (k : Nat) : Cpu := Cpu.repeated p.2.2.1 neverStop k (s.cpu h)
      ∀ k, k < h.CX.toNat →
        (∀ j, j < k → (after j).elementFault p.1 p.2.1 = none ∧ p.2.2.2.1 (after (j + 1)).hart.flags = false) →
        ∀ f e, (after k).elementFault p.1 p.2.1 = some (f, e) →
          (∀ i ∈ p.2.2.2.2, exec i s = .next ((s.commit e).kill f)) ∧
          e.hart = (after k).hart ∧ e.hart.CX = h.CX - BitVec.ofNat 16 k ∧
          e.hart.SI = (if p.1.usesSource then (h.source p.2.1 k).off else h.SI) ∧
          e.hart.DI = (if p.1.usesTarget then (h.target p.2.1 k).off else h.DI)

/-- What a fault does: the hart is dead, the counts move, the death is reported; no register, no memory, nothing else
(R434). -/
def Obligations.KillEffect : Prop :=
  ∀ (s : State) (f : HartFault) (h : Hart), s.Running h →
    s.kill f = { s with
      harts := s.harts.set s.turn { h with alive := false }
      aliveCount := s.aliveCount - 1
      deathCount := s.deathCount + 1
      events := .death s.turn f :: s.events } ∧
    (s.kill f).afterInstr = (s.kill f).nextTurn

/-- Speed is 0 at Energy 0, else the bit length of Energy, MAX_SPEED at most; it never falls as Energy rises (R446).
-/
def Obligations.SpeedIsBitLength : Prop :=
  ∀ p : Config.Params, 16 ≤ p.maxSpeed →
    speed p 0 = 0 ∧ speed p 0xFFFF = 16 ∧
    (∀ e : Word, e ≠ 0 → speed p e = min p.maxSpeed (1 + Nat.log 2 e.toNat)) ∧
    (∀ e : Word, e ≠ 0 → 1 ≤ speed p e ∧ speed p e ≤ 16 ∧ 2 ^ (speed p e - 1) ≤ e.toNat ∧ e.toNat < 2 ^ speed p e) ∧
    (∀ e f : Word, e ≤ f → speed p e ≤ speed p f)

/-- After a mandatory instruction: decay in every DECELERATION_ROUNDS-th round, one draw, an extra instruction exactly
below speed (60_exceptions.md, R444, R445, R447, R451, log 3, log 6). The draw is a free value (log 3); the phase is
the model's own field (log 6). -/
def Obligations.TurnOfAHart : Prop :=
  ∀ (s : State) (h : Hart), s.Running h → h.alive = true →
    let e : Word := if s.round % s.params.decelerationRounds = 0 ∧ h.energy ≠ 0 then h.energy - 1 else h.energy
    let u := s.params.draw s.drawCount
    let s' : State := { s with harts := s.harts.set s.turn { h with energy := e }, drawCount := s.drawCount + 1 }
    (s.params.legal = true → u < s.params.maxSpeed) ∧
    (s.phase = .mandatory → u < speed s.params e → s.afterInstr = { s' with phase := .extra }) ∧
    (s.phase = .mandatory → speed s.params e ≤ u → s.afterInstr = s'.nextTurn) ∧
    (s.phase = .extra → s.afterInstr = s.nextTurn)

/-- The turn passes to the next living hart in load order; with none left the round is over (60_exceptions.md, R443,
R451, log 6, log 18). The phase is the model's own field (log 6). That turn stays at a round boundary is the model's
choice: no rule gives it a value there (log 18). -/
def Obligations.TurnsInLoadOrder : Prop :=
  ∀ s t : State, s.nextTurn = t →
    (∀ v h, s.turn < v → s.harts[v]? = some h → h.alive = true →
      (∀ u g, s.turn < u → u < v → s.harts[u]? = some g → g.alive = false) →
      t = { s with turn := v, phase := .mandatory }) ∧
    ((∀ u g, s.turn < u → s.harts[u]? = some g → g.alive = false) →
      t = { s with round := s.round + 1, phase := .boundary })

/-- At a round boundary: single winner, then the round cap, then abort, in this order; else the round begins
(60_exceptions.md, R448, R449, R450, R451, log 6, log 12). The phase is the model's own field (log 6), and the outputs
are kept as a list, newest first (log 12). -/
def Obligations.RoundBoundary : Prop :=
  ∀ s : State, s.endReason = none → s.phase = .boundary →
    (s.aliveCount < 2 → step s = .next (s.finish .singleWinner)) ∧
    (2 ≤ s.aliveCount → s.round = s.params.maxRound → step s = .next (s.finish .roundCapReached)) ∧
    (2 ≤ s.aliveCount → s.round ≠ s.params.maxRound → s.abort = true → step s = .next (s.finish .aborted)) ∧
    (2 ≤ s.aliveCount → s.round ≠ s.params.maxRound → s.abort = false →
      ∀ w h, s.harts[w]? = some h → h.alive = true → (∀ u g, u < w → s.harts[u]? = some g → g.alive = false) →
        step s = .next { s with events := .round s.round :: s.events, turn := w, phase := .mandatory }) ∧
    (∀ r, s.finish r = { s with endReason := some r, events := .warEnd r s.winners :: s.events }) ∧
    (∀ w, w ∈ s.winners ↔ ∃ h, s.harts[w]? = some h ∧ h.alive = true) ∧
    s.raiseAbort = { s with abort := true }

/-- The registers of every hart after reset (R488). -/
def Obligations.ResetRegisters : Prop :=
  ∀ (c : ResetConfig) (s : State), resetBlock c = some s → ∀ (w : Nat) (h : Hart), s.harts[w]? = some h →
    (∃ v, c.warriors[w]? = some v ∧ h.AX = BitVec.ofNat 16 v.loadOffset ∧ h.IP = h.AX) ∧
    h.CS = c.params.arenaSegment ∧ h.DS = c.params.arenaSegment ∧ h.SP = BitVec.ofNat 16 c.params.stackSize ∧
    (c.params = Config.hardware → h.CS = 0x1000 ∧ h.SP = 0x0800) ∧
    (let before := ((c.groups.take h.info.group).map List.length).sum
     (∃ members, c.groups[h.info.group]? = some members ∧ before ≤ w ∧ w < before + members.length) ∧
     h.info.sharedLinear =
       c.params.arenaEnd + h.info.group * c.params.sharedSize + before * c.params.stackSize ∧
     h.info.stackLinear =
       c.params.arenaEnd + (h.info.group + 1) * c.params.sharedSize + w * c.params.stackSize) ∧
    h.SS.toNat = h.info.stackLinear / c.params.paragraphSize ∧
    h.ES.toNat = h.info.sharedLinear / c.params.paragraphSize ∧
    h.CX = 0 ∧ h.DX = 0 ∧ h.BX = 0 ∧ h.BP = 0 ∧ h.SI = 0 ∧ h.DI = 0 ∧ h.flags.toWord = 0 ∧
    h.energy = 0 ∧ h.bomb0 = 2 ∧ h.bomb1 = 1 ∧ h.bomb2 = 0 ∧ h.alive = true

/-- What every hart may do after reset: all in the arena, read and write in its own stack and its group's shared block
(70_reset_and_hazards.md, 20_memory.md, R486, R487). -/
def Obligations.ResetGrants : Prop :=
  ∀ (c : ResetConfig) (s : State), resetBlock c = some s → ∀ (h : Hart), h ∈ s.harts → ∀ L, L < c.params.memorySize →
    permAt h.perm L =
      if c.params.arenaBase ≤ L ∧ L < c.params.arenaBase + c.params.arenaSize then
        c.params.permRead ||| c.params.permWrite ||| c.params.permExec
      else if (h.info.stackLinear ≤ L ∧ L < h.info.stackLinear + c.params.stackSize) ∨
        (h.info.sharedLinear ≤ L ∧ L < h.info.sharedLinear + c.params.sharedSize) then
        c.params.permRead ||| c.params.permWrite
      else 0

/-- Memory and the scheduler after reset: the images at their offsets, ARENA_FILL in the rest of the arena,
BACKGROUND_FILL elsewhere (70_reset_and_hazards.md, R481, R482, R485, R490). -/
def Obligations.ResetMemory : Prop :=
  ∀ (c : ResetConfig) (s : State), resetBlock c = some s →
    let base := c.params.arenaSegment.toNat * c.params.paragraphSize
    (∀ v ∈ c.warriors, ∀ (k : Nat) (b : Byte), v.image[k]? = some b →
      s.mem.read c.params (base + v.loadOffset + k) = b) ∧
    (∀ L, (∀ v ∈ c.warriors, L < base + v.loadOffset ∨ base + v.loadOffset + v.image.length ≤ L) →
      s.mem.read c.params L =
        if base ≤ L ∧ L < base + c.params.arenaSize then c.params.arenaFill else c.params.backgroundFill) ∧
    s.harts.length = c.warriors.length ∧ s.round = 0 ∧ s.turn = 0 ∧ s.aliveCount = c.warriors.length ∧
    s.deathCount = 0 ∧ s.endReason = none ∧ s.abort = false ∧
    s.events.reverse = .warStart :: (List.range c.warriors.length).map .birth

/-- With room for six regions, reset fails exactly for the illegal configurations; never is a table longer than
MAX_REGIONS (70_reset_and_hazards.md, 20_memory.md, R87, R483, R484, R486, R489, log 29). Which parameters are legal
is the model's (log 29). -/
def Obligations.ResetErrors : Prop :=
  ∀ c : ResetConfig,
    let ok : Prop := c.params.legal = true ∧ 2 ≤ c.warriors.length ∧
      (∀ g ∈ c.groups, g.length = 1 ∨ g.length = 2) ∧
      (∀ v ∈ c.warriors, 1 ≤ v.image.length ∧ v.image.length ≤ c.params.maxWarriorSize ∧
        c.params.minGap ≤ v.loadOffset ∧
        v.loadOffset + v.image.length + c.params.minGap ≤ c.params.arenaSize) ∧
      c.warriors.Pairwise (fun v w => v.loadOffset + v.image.length + c.params.minGap ≤ w.loadOffset ∨
        w.loadOffset + w.image.length + c.params.minGap ≤ v.loadOffset) ∧
      c.params.arenaEnd + c.groups.length * c.params.sharedSize + c.warriors.length * c.params.stackSize ≤
        c.params.memorySize
    (6 ≤ c.params.maxRegions → ((resetBlock c).isSome = true ↔ ok)) ∧
    (∀ s, resetBlock c = some s → ok ∧ ∀ h ∈ s.harts, h.perm.length ≤ c.params.maxRegions)

end
end

