-- ==== Sys2Proof/Laws/Encode.lean ====
section
/-! SUPPORT. Each part of the decoder reads back what the encoder writes for it. A lemma
`opX_bytes` or `opGroup_x` is for the rows of that operand form. -/

namespace Sys2Proof

/-- The number of a register names it back. -/
theorem reg8_ofIndex (r : Reg8) : Reg8.ofIndex r.index = r := by cases r <;> rfl

/-- The number of a register names it back. -/
theorem reg16_ofIndex (r : Reg16) : Reg16.ofIndex r.index = r := by cases r <;> rfl

/-- The number of an addressing form names it back. -/
theorem base_ofIndex (r : Base) : Base.ofIndex r.index = r := by cases r <;> rfl

/-- Every number is a byte register's. -/
theorem reg8_index (r) : (Reg8.ofIndex r).index = r := by revert r; decide

/-- Every number is a word register's. -/
theorem reg16_index (r) : (Reg16.ofIndex r).index = r := by revert r; decide

/-- Every number is an addressing form's. -/
theorem base_index (r) : (Base.ofIndex r).index = r := by revert r; decide

/-- The parser takes a ModR/M byte apart into the three fields it was made of. -/
theorem nextModrm_byte (mm rrr iii rest) (F : BitVec 2 → BitVec 3 → BitVec 3 → Parser) :
    nextModrm (modrmByte mm rrr iii :: rest) F = F mm rrr iii rest := by
  have h : (modrmByte mm rrr iii).extractLsb' 6 2 = mm ∧ (modrmByte mm rrr iii).extractLsb' 3 3 = rrr ∧ (modrmByte mm rrr iii).extractLsb' 0 3 = iii := by
    revert mm rrr iii; decide +kernel
  simp only [nextModrm, nextByte, h]

/-- The parser reads a little-endian word back. -/
theorem nextWord_bytes (w rest k) : nextWord (wordBytes w ++ rest) k = k w rest := by
  have h : (w.extractLsb' 8 8 ++ w.extractLsb' 0 8 : Word) = w := by
    apply BitVec.eq_of_getLsbD_eq
    intro i hi
    rw [BitVec.getLsbD_append]
    split
    · simp [*]
    · simp [show i - 8 < 8 by omega, show 8 + (i - 8) = i by omega]
  simp only [nextWord, wordBytes, List.cons_append, List.nil_append, nextByte, h]

/-- A memory operand's bytes are a ModR/M byte with mod not 11 and a rest that reads back as the operand. -/
theorem mem_bytes (m : MemOp) (hm : m.wf = true) (rrr : BitVec 3) (rest : List Byte) :
    ∃ mm iii r0, mm ≠ 3 ∧ m.bytes rrr ++ rest = modrmByte mm rrr iii :: r0 ∧
      ∀ k, nextMem mm iii r0 k = k m rest := by
  cases m with
  | absolute d => exact ⟨0, 6, wordBytes d ++ rest, by decide, rfl, fun k => nextWord_bytes d rest fun d r => k (.absolute d) r⟩
  | plain b => 
    refine ⟨0, b.index, rest, by decide, rfl, fun k => ?_⟩
    cases b <;> first | rfl | cases hm
  | disp8 b d => 
    refine ⟨1, b.index, d :: rest, by decide, rfl, fun k => ?_⟩
    show k (.disp8 (Base.ofIndex b.index) d) rest = _
    rw [base_ofIndex]
  | disp16 b d => 
    refine ⟨2, b.index, wordBytes d ++ rest, by decide, rfl, fun k => ?_⟩
    refine (nextWord_bytes d rest fun d r => k (.disp16 (Base.ofIndex b.index) d) r).trans ?_
    rw [base_ofIndex]

/-- The same for a byte operand, a register among them. -/
theorem rm8_bytes (m : Rm8) (hm : m.wf = true) (rrr : BitVec 3) (rest : List Byte) :
    ∃ mm iii r0, m.bytes rrr ++ rest = modrmByte mm rrr iii :: r0 ∧
      ∀ k, nextRm8 mm iii r0 k = k m rest := by
  cases m with
  | reg r => exact ⟨3, r.index, rest, rfl, fun k => by simp only [nextRm8, if_true, reg8_ofIndex]⟩
  | mem m =>
    obtain ⟨mm, iii, r0, h3, h, hk⟩ := mem_bytes m hm rrr rest
    exact ⟨mm, iii, r0, h, fun k => by simp only [nextRm8, if_neg h3, hk]⟩

/-- The same for a word operand, a register among them. -/
theorem rm16_bytes (m : Rm16) (hm : m.wf = true) (rrr : BitVec 3) (rest : List Byte) :
    ∃ mm iii r0, m.bytes rrr ++ rest = modrmByte mm rrr iii :: r0 ∧
      ∀ k, nextRm16 mm iii r0 k = k m rest := by
  cases m with
  | reg r => exact ⟨3, r.index, rest, rfl, fun k => by simp only [nextRm16, if_true, reg16_ofIndex]⟩
  | mem m =>
    obtain ⟨mm, iii, r0, h3, h, hk⟩ := mem_bytes m hm rrr rest
    exact ⟨mm, iii, r0, h, fun k => by simp only [nextRm16, if_neg h3, hk]⟩

theorem opImm16_bytes (k w rest) : opImm16 k (wordBytes w ++ rest) = .ok (k w, rest) := nextWord_bytes _ _ _

theorem opPtr_bytes (k a b rest) : opPtr k (wordBytes a ++ wordBytes b ++ rest) = .ok (k a b, rest) := by
  rw [List.append_assoc]; exact (nextWord_bytes _ _ _).trans (nextWord_bytes _ _ _)

theorem opImm16Imm8_bytes (k w b rest) : opImm16Imm8 k (wordBytes w ++ [b] ++ rest) = .ok (k w b, rest) := by
  rw [List.append_assoc]; exact nextWord_bytes _ _ _

theorem opRmReg8_bytes (k) (rm : Rm8) (r : Reg8) (rest) (h : rm.wf = true) :
    opRmReg8 k (rm.bytes r.index ++ rest) = .ok (k rm r, rest) := by
  obtain ⟨mm, iii, r0, hb, hk⟩ := rm8_bytes rm h r.index rest
  rw [opRmReg8, hb, nextModrm_byte, hk, reg8_ofIndex]; rfl

theorem opRmReg16_bytes (k) (rm : Rm16) (r : Reg16) (rest) (h : rm.wf = true) :
    opRmReg16 k (rm.bytes r.index ++ rest) = .ok (k rm r, rest) := by
  obtain ⟨mm, iii, r0, hb, hk⟩ := rm16_bytes rm h r.index rest
  rw [opRmReg16, hb, nextModrm_byte, hk, reg16_ofIndex]; rfl

theorem opRmSreg_bytes (k) (rm : Rm16) (r) (rest) (h : rm.wf = true) :
    opRmSreg k (rm.bytes r ++ rest) = .ok (k rm r, rest) := by
  obtain ⟨mm, iii, r0, hb, hk⟩ := rm16_bytes rm h r rest
  rw [opRmSreg, hb, nextModrm_byte, hk]; rfl

theorem opRegRmImm16_bytes (k) (rm : Rm16) (r : Reg16) (w rest) (h : rm.wf = true) :
    opRegRmImm16 k (rm.bytes r.index ++ wordBytes w ++ rest) = .ok (k r rm w, rest) := by
  rw [List.append_assoc]
  obtain ⟨mm, iii, r0, hb, hk⟩ := rm16_bytes rm h r.index (wordBytes w ++ rest)
  rw [opRegRmImm16, hb, nextModrm_byte, hk, nextWord_bytes, reg16_ofIndex]; rfl

theorem opRegRmImm8_bytes (k) (rm : Rm16) (r : Reg16) (w rest) (h : rm.wf = true) :
    opRegRmImm8 k (rm.bytes r.index ++ [w] ++ rest) = .ok (k r rm w, rest) := by
  rw [List.append_assoc]
  obtain ⟨mm, iii, r0, hb, hk⟩ := rm16_bytes rm h r.index ([w] ++ rest)
  rw [opRegRmImm8, hb, nextModrm_byte, hk, reg16_ofIndex]; rfl

theorem opMem_bytes (k b) (m : MemOp) (r : Reg16) (rest) (h : m.wf = true) :
    opMem k b (m.bytes r.index ++ rest) = .ok (k r m, rest) := by
  obtain ⟨mm, iii, r0, h3, hb, hk⟩ := mem_bytes m h r.index rest
  rw [opMem, hb, nextModrm_byte, if_neg h3, hk, reg16_ofIndex]; rfl

theorem opMem_bad (k b rrr iii rest) : opMem k b (modrmByte 3 rrr iii :: rest) = .ok (b rrr iii, rest) := by
  rw [opMem, nextModrm_byte, if_pos rfl]; rfl

theorem opGroup_rm8 (T k) (rm : Rm8) (rrr rest) (h : rm.wf = true) (hT : T rrr.toNat = subRm8 k) :
    opGroup T (rm.bytes rrr ++ rest) = .ok (k rm, rest) := by
  obtain ⟨mm, iii, r0, hb, hk⟩ := rm8_bytes rm h rrr rest
  rw [opGroup, hb, nextModrm_byte, hT, subRm8, hk]; rfl

theorem opGroup_rm16 (T k) (rm : Rm16) (rrr rest) (h : rm.wf = true) (hT : T rrr.toNat = subRm16 k) :
    opGroup T (rm.bytes rrr ++ rest) = .ok (k rm, rest) := by
  obtain ⟨mm, iii, r0, hb, hk⟩ := rm16_bytes rm h rrr rest
  rw [opGroup, hb, nextModrm_byte, hT, subRm16, hk]; rfl

theorem opGroup_rm8i (T k) (rm : Rm8) (rrr i rest) (h : rm.wf = true) (hT : T rrr.toNat = subRm8Imm8 k) :
    opGroup T (rm.bytes rrr ++ [i] ++ rest) = .ok (k rm i, rest) := by
  rw [List.append_assoc]
  obtain ⟨mm, iii, r0, hb, hk⟩ := rm8_bytes rm h rrr ([i] ++ rest)
  rw [opGroup, hb, nextModrm_byte, hT, subRm8Imm8, hk]; rfl

theorem opGroup_rm16i (T k) (rm : Rm16) (rrr i rest) (h : rm.wf = true) (hT :
    T rrr.toNat = subRm16Imm8 k) : opGroup T (rm.bytes rrr ++ [i] ++ rest) = .ok (k rm i, rest) := by
  rw [List.append_assoc]
  obtain ⟨mm, iii, r0, hb, hk⟩ := rm16_bytes rm h rrr ([i] ++ rest)
  rw [opGroup, hb, nextModrm_byte, hT, subRm16Imm8, hk]; rfl

theorem opGroup_rm16w (T k) (rm : Rm16) (rrr i rest) (h : rm.wf = true) (hT :
    T rrr.toNat = subRm16Imm16 k) : opGroup T (rm.bytes rrr ++ wordBytes i ++ rest) = .ok (k rm i, rest) := by
  rw [List.append_assoc]
  obtain ⟨mm, iii, r0, hb, hk⟩ := rm16_bytes rm h rrr (wordBytes i ++ rest)
  rw [opGroup, hb, nextModrm_byte, hT, subRm16Imm16, hk, nextWord_bytes]; rfl

theorem opGroup_mem (T k b) (m : MemOp) (rrr rest) (h : m.wf = true) (hT : T rrr.toNat = subMem k b) :
    opGroup T (m.bytes rrr ++ rest) = .ok (k m, rest) := by
  obtain ⟨mm, iii, r0, h3, hb, hk⟩ := mem_bytes m h rrr rest
  rw [opGroup, hb, nextModrm_byte, hT, subMem, if_neg h3, hk]; rfl

theorem opGroup_bad (T k b rrr iii rest) (hT : T (BitVec.toNat rrr) = subMem k b) :
    opGroup T (modrmByte 3 rrr iii :: rest) = .ok (b iii, rest) := by
  rw [opGroup, nextModrm_byte, hT, subMem, if_pos rfl]; rfl

theorem opGroup_inv (T k mm rrr iii rest) (hT : T (BitVec.toNat rrr) = subInvalid k) :
    opGroup T (modrmByte mm rrr iii :: rest) = .ok (k mm iii, rest) := by
  rw [opGroup, nextModrm_byte, hT, subInvalid]; rfl

end Sys2Proof
end

