-- ==== Sys2Proof/Laws/Decode.lean ====
section
/-! SUPPORT. Each part of the decoder reads nothing but encodings of well-formed instructions.
`readsOnly_op_x` is for the rows of one operand form, `subReadsOnly_x` for the entries of a group. -/

namespace Sys2Proof

/-- After the bytes `pre`, `p` answers well-formed instructions only, each from the bytes of its own
encoding, and `n` more bytes are enough for it. -/
def ReadsOnly (n : Nat) (pre : List Byte) (p : Parser) : Prop :=
  (∀ bs i rest, p bs = .ok (i, rest) → i.wf = true ∧ pre ++ bs = encode i ++ rest) ∧
  (∀ bs, n ≤ bs.length → ∃ x, p bs = .ok x)

/-- An instruction without operand bytes. -/
theorem readsOnly_op {n pre i} (hw : i.wf = true) (he : encode i = pre) : ReadsOnly n pre (op i) :=
  ⟨fun bs j rest h => by cases h; exact ⟨hw, by rw [he]⟩, fun bs _ => ⟨_, rfl⟩⟩

/-- One more byte. -/
theorem readsOnly_byte {n pre k} (h : ∀ b, ReadsOnly n (pre ++ [b]) (k b)) :
    ReadsOnly (n+1) pre (fun bs => nextByte bs k) := by
  refine ⟨fun bs i rest e => ?_, fun bs hl => ?_⟩
  · cases bs with
    | nil => cases e
    | cons b bs => have := (h b).1 bs i rest e; rwa [List.append_assoc] at this
  · cases bs with
    | nil => cases hl
    | cons b bs => exact (h b).2 bs (by simpa using hl)

/-- The bytes of a word, low byte first. -/
theorem wordBytes_append (lo hi : Byte) : wordBytes (hi ++ lo) = [lo, hi] := by
  simp only [wordBytes, List.cons.injEq, and_true]
  constructor <;> (apply BitVec.eq_of_getLsbD_eq; intro i hi'; rw [BitVec.getLsbD_extractLsb',
                                                            BitVec.getLsbD_append]) <;> simp [hi']

/-- One more word. -/
theorem readsOnly_word {n pre k} (h : ∀ w, ReadsOnly n (pre ++ wordBytes w) (k w)) :
    ReadsOnly (n+2) pre (fun bs => nextWord bs k) := by
  apply readsOnly_byte; intro lo; apply readsOnly_byte; intro hi
  have := h (hi ++ lo)
  rw [wordBytes_append] at this; rwa [List.append_assoc]

/-- A ModR/M byte is made of its three fields. -/
theorem modrm_split (b : Byte) : modrmByte (b.extractLsb' 6 2) (b.extractLsb' 3 3)
    (b.extractLsb' 0 3) = b := by
  revert b; decide +kernel

/-- A ModR/M byte. -/
theorem readsOnly_modrm {n pre F} (h : ∀ mm rrr iii,
    ReadsOnly n (pre ++ [modrmByte mm rrr iii]) (F mm rrr iii)) :
    ReadsOnly (n+1) pre (fun bs => nextModrm bs F) := by
  apply readsOnly_byte; intro b
  have := h (b.extractLsb' 6 2) (b.extractLsb' 3 3) (b.extractLsb' 0 3)
  rwa [modrm_split] at this

/-- More bytes are enough too. -/
theorem readsOnly_mono {n m pre p} (h : ReadsOnly n pre p) (hl : n ≤ m) :
    ReadsOnly m pre p := ⟨h.1, fun bs hb => h.2 bs (le_trans hl hb)⟩

/-- The rest of a memory operand. -/
theorem readsOnly_mem {n pre k mm rrr iii} (h3 : mm ≠ 3) (h : ∀ m : MemOp, m.wf = true →
    ReadsOnly n (pre ++ m.bytes rrr) (k m)) : 
   ReadsOnly (n+2) (pre ++ [modrmByte mm rrr iii]) (fun bs => nextMem mm iii bs k) := by
  have hm : mm = 0 ∨ mm = 1 ∨ mm = 2 := by revert mm; decide
  rcases hm with rfl | rfl | rfl
  · by_cases h6 : iii = 6
    · subst h6
      have e : (fun bs => nextMem 0 6 bs k) = fun bs => nextWord bs fun d rest => k (.absolute d) rest := rfl
      rw [e]; apply readsOnly_word; intro d; have := h (.absolute d) rfl; rwa [List.append_assoc]
    · have hw : (MemOp.plain (Base.ofIndex iii)).wf = true := by revert h6; revert iii; decide
      have e : (fun bs => nextMem 0 iii bs k) = k (.plain (Base.ofIndex iii)) := by
        funext bs; simp only [nextMem]; exact if_neg h6
      rw [e]
      have := h _ hw
      simp only [MemOp.bytes, base_index] at this
      exact readsOnly_mono this (by omega)
  · refine readsOnly_mono (n := n+1) ?_ (by omega)
    apply readsOnly_byte; intro d
    have := h (.disp8 (Base.ofIndex iii) d) rfl
    simp only [MemOp.bytes, base_index] at this
    rwa [List.append_assoc]
  · refine readsOnly_word (k := fun d rest => k (.disp16 (Base.ofIndex iii) d) rest) fun d => ?_
    have := h (.disp16 (Base.ofIndex iii) d) rfl
    simp only [MemOp.bytes, base_index] at this
    rwa [List.append_assoc]

/-- The rest of a byte operand. -/
theorem readsOnly_rm8 {n pre k mm rrr iii} (h : ∀ m : Rm8, m.wf = true →
    ReadsOnly n (pre ++ m.bytes rrr) (k m)) : 
   ReadsOnly (n+2) (pre ++ [modrmByte mm rrr iii]) (fun bs => nextRm8 mm iii bs k) := by
  by_cases h3 : mm = 3
  · subst h3
    have e : (fun bs => nextRm8 3 iii bs k) = k (.reg (Reg8.ofIndex iii)) := rfl
    rw [e]
    have := h (.reg (Reg8.ofIndex iii)) rfl
    simp only [Rm8.bytes, reg8_index] at this
    exact readsOnly_mono this (by omega)
  · have e : (fun bs => nextRm8 mm iii bs k) = fun bs => nextMem mm iii bs fun m rest => k (.mem m) rest := by
      funext bs; simp only [nextRm8]; exact if_neg h3
    rw [e]; apply readsOnly_mem h3; intro m hm; exact h (.mem m) hm

/-- The rest of a word operand. -/
theorem readsOnly_rm16 {n pre k mm rrr iii} (h : ∀ m : Rm16, m.wf = true →
    ReadsOnly n (pre ++ m.bytes rrr) (k m)) : 
   ReadsOnly (n+2) (pre ++ [modrmByte mm rrr iii]) (fun bs => nextRm16 mm iii bs k) := by
  by_cases h3 : mm = 3
  · subst h3
    have e : (fun bs => nextRm16 3 iii bs k) = k (.reg (Reg16.ofIndex iii)) := rfl
    rw [e]
    have := h (.reg (Reg16.ofIndex iii)) rfl
    simp only [Rm16.bytes, reg16_index] at this
    exact readsOnly_mono this (by omega)
  · have e : (fun bs => nextRm16 mm iii bs k) = fun bs => nextMem mm iii bs fun m rest => k (.mem m) rest := by
      funext bs; simp only [nextRm16]; exact if_neg h3
    rw [e]; apply readsOnly_mem h3; intro m hm; exact h (.mem m) hm

variable {pre : List Byte}

theorem readsOnly_op_imm8 {k} (h : ∀ b, (k b).wf = true ∧
    encode (k b) = pre ++ [b]) : ReadsOnly 5 pre (opImm8 k) :=
  readsOnly_mono (n := 1) (readsOnly_byte fun b => readsOnly_op (h b).1 (h b).2) (by omega)

theorem readsOnly_op_imm16 {k} (h : ∀ b, (k b).wf = true ∧
    encode (k b) = pre ++ wordBytes b) : ReadsOnly 5 pre (opImm16 k) :=
  readsOnly_mono (n := 2) (readsOnly_word (n := 0) fun b => readsOnly_op (h b).1 (h b).2) (by omega)

theorem readsOnly_op_ptr {k} (h : ∀ a b, (k a b).wf = true ∧
    encode (k a b) = pre ++ wordBytes a ++ wordBytes b) : ReadsOnly 5 pre (opPtr k) :=
  readsOnly_mono (n := 4) (readsOnly_word (n := 2) fun a => readsOnly_word (n := 0) fun b =>
    readsOnly_op (h a b).1 (h a b).2) (by omega)

theorem readsOnly_op_imm16imm8 {k} (h : ∀ a b, (k a b).wf = true ∧
    encode (k a b) = pre ++ wordBytes a ++ [b]) : ReadsOnly 5 pre (opImm16Imm8 k) :=
  readsOnly_mono (n := 3) (readsOnly_word (n := 1) fun a => readsOnly_byte (n := 0) fun b =>
    readsOnly_op (h a b).1 (h a b).2) (by omega)

theorem readsOnly_op_rr8 {k} (h : ∀ (a : Rm8) (b : Reg8), a.wf = true → (k a b).wf = true ∧
    encode (k a b) = pre ++ a.bytes b.index) : ReadsOnly 5 pre (opRmReg8 k) :=
  readsOnly_mono (n := 3) (readsOnly_modrm (n := 2) fun mm rrr iii => readsOnly_rm8 (n := 0) fun m hm =>
    readsOnly_op (h m _ hm).1 (by rw [(h m _ hm).2, reg8_index])) (by omega)

theorem readsOnly_op_rr16 {k} (h : ∀ (a : Rm16) (b : Reg16), a.wf = true → (k a b).wf = true ∧
    encode (k a b) = pre ++ a.bytes b.index) : ReadsOnly 5 pre (opRmReg16 k) :=
  readsOnly_mono (n := 3) (readsOnly_modrm (n := 2) fun mm rrr iii => readsOnly_rm16 (n := 0) fun m hm =>
    readsOnly_op (h m _ hm).1 (by rw [(h m _ hm).2, reg16_index])) (by omega)

theorem readsOnly_op_sr {k} (h : ∀ (a : Rm16) b, a.wf = true → (k a b).wf = true ∧
    encode (k a b) = pre ++ a.bytes b) : ReadsOnly 5 pre (opRmSreg k) :=
  readsOnly_mono (n := 3) (readsOnly_modrm (n := 2) fun mm rrr iii => readsOnly_rm16 (n := 0) fun m hm =>
    readsOnly_op (h m _ hm).1 (h m _ hm).2) (by omega)

theorem readsOnly_op_rri16 {k} (h : ∀ (r : Reg16) (a : Rm16) b, a.wf = true → (k r a b).wf = true ∧
    encode (k r a b) = pre ++ a.bytes r.index ++ wordBytes b) : ReadsOnly 5 pre (opRegRmImm16 k) :=
  (readsOnly_modrm (n := 4) fun mm rrr iii => readsOnly_rm16 (n := 2) fun m hm =>
    readsOnly_word (n := 0) fun w => readsOnly_op (h _ m w hm).1 (by rw [(h _ m w hm).2, reg16_index]))

theorem readsOnly_op_rri8 {k} (h : ∀ (r : Reg16) (a : Rm16) b, a.wf = true → (k r a b).wf = true ∧
    encode (k r a b) = pre ++ a.bytes r.index ++ [b]) : ReadsOnly 5 pre (opRegRmImm8 k) :=
  readsOnly_mono (n := 4) (readsOnly_modrm (n := 3) fun mm rrr iii => readsOnly_rm16 (n := 1) fun m hm =>
    readsOnly_byte (n := 0) fun w =>
    readsOnly_op (h _ m w hm).1 (by rw [(h _ m w hm).2, reg16_index])) (by omega)

theorem readsOnly_op_mem {k b} (h : ∀ (r : Reg16) (m : MemOp), m.wf = true → (k r m).wf = true ∧
    encode (k r m) = pre ++ m.bytes r.index)
   (hb : ∀ rrr iii, (b rrr iii).wf = true ∧ encode (b rrr iii) = pre ++ [modrmByte 3 rrr iii]) :
    ReadsOnly 5 pre (opMem k b) := by
  refine readsOnly_mono (n := 3) (readsOnly_modrm (n := 2) fun mm rrr iii => ?_) (by omega)
  by_cases h3 : mm = 3
  · subst h3
    exact readsOnly_op (hb _ _).1 (hb _ _).2
  · simp only [if_neg h3]
    exact readsOnly_mem h3 fun m hm => readsOnly_op (h _ m hm).1 (by rw [(h _ m hm).2, reg16_index])

/-- The same for the entry of an opcode group, after a ModR/M byte whose middle field is `rrr`. -/
def SubReadsOnly (n : Nat) (pre : List Byte) (rrr : BitVec 3) (p : SubParser) :
    Prop := ∀ mm iii, ReadsOnly n (pre ++ [modrmByte mm rrr iii]) (p mm iii)

/-- A group reads only encodings if each of its eight entries does. -/
theorem readsOnly_op_group {T : Nat → SubParser} (h0 : SubReadsOnly 4 pre 0 (T 0)) (h1 :
    SubReadsOnly 4 pre 1 (T 1)) (h2 : SubReadsOnly 4 pre 2 (T 2)) (h3 : SubReadsOnly 4 pre 3 (T 3)) (h4 :
    SubReadsOnly 4 pre 4 (T 4)) (h5 : SubReadsOnly 4 pre 5 (T 5)) (h6 : SubReadsOnly 4 pre 6 (T 6)) (h7 :
    SubReadsOnly 4 pre 7 (T 7)) : ReadsOnly 5 pre (opGroup T) := by
  refine readsOnly_modrm fun mm rrr iii => ?_
  rcases (by decide : ∀ n : BitVec 3, n = 0 ∨ n = 1 ∨ n = 2 ∨ n = 3 ∨ n = 4 ∨ n = 5 ∨ n = 6 ∨ n = 7) rrr with rfl | rfl | rfl | rfl | rfl | rfl | rfl | rfl
  · exact h0 mm iii
  · exact h1 mm iii
  · exact h2 mm iii
  · exact h3 mm iii
  · exact h4 mm iii
  · exact h5 mm iii
  · exact h6 mm iii
  · exact h7 mm iii

theorem subReadsOnly_rm8 {k rrr} (h : ∀ a : Rm8, a.wf = true → (k a).wf = true ∧
    encode (k a) = pre ++ a.bytes rrr) : SubReadsOnly 4 pre rrr (subRm8 k) := fun mm iii =>
  readsOnly_mono (n := 2) (readsOnly_rm8 (n := 0) fun m hm => readsOnly_op (h m hm).1 (h m hm).2) (by omega)

theorem subReadsOnly_rm16 {k rrr} (h : ∀ a : Rm16, a.wf = true → (k a).wf = true ∧
    encode (k a) = pre ++ a.bytes rrr) : SubReadsOnly 4 pre rrr (subRm16 k) := fun mm iii =>
  readsOnly_mono (n := 2) (readsOnly_rm16 (n := 0) fun m hm => readsOnly_op (h m hm).1 (h m hm).2) (by omega)

theorem subReadsOnly_rm8i {k rrr} (h : ∀ (a : Rm8) b, a.wf = true → (k a b).wf = true ∧
    encode (k a b) = pre ++ a.bytes rrr ++ [b]) : SubReadsOnly 4 pre rrr (subRm8Imm8 k) := fun mm iii =>
  readsOnly_mono (n := 3) (readsOnly_rm8 (n := 1) fun m hm => readsOnly_byte fun b =>
    readsOnly_op (h m b hm).1 (h m b hm).2) (by omega)

theorem subReadsOnly_rm16i {k rrr} (h : ∀ (a : Rm16) b, a.wf = true → (k a b).wf = true ∧
    encode (k a b) = pre ++ a.bytes rrr ++ [b]) : SubReadsOnly 4 pre rrr (subRm16Imm8 k) := fun mm iii =>
  readsOnly_mono (n := 3) (readsOnly_rm16 (n := 1) fun m hm => readsOnly_byte fun b =>
    readsOnly_op (h m b hm).1 (h m b hm).2) (by omega)

theorem subReadsOnly_rm16w {k rrr} (h : ∀ (a : Rm16) b, a.wf = true → (k a b).wf = true ∧
    encode (k a b) = pre ++ a.bytes rrr ++ wordBytes b) :
    SubReadsOnly 4 pre rrr (subRm16Imm16 k) := fun mm iii =>
  (readsOnly_rm16 (n := 2) fun m hm => readsOnly_word fun b => readsOnly_op (h m b hm).1 (h m b hm).2)

theorem subReadsOnly_inv {k rrr} (h : ∀ mm iii, (k mm iii).wf = true ∧
    encode (k mm iii) = pre ++ [modrmByte mm rrr iii]) :
    SubReadsOnly 4 pre rrr (subInvalid k) := fun mm iii =>
  readsOnly_op (h mm iii).1 (h mm iii).2

theorem subReadsOnly_mem {k b rrr} (h : ∀ (m : MemOp), m.wf = true → (k m).wf = true ∧
    encode (k m) = pre ++ m.bytes rrr)
   (hb : ∀ iii, (b iii).wf = true ∧ encode (b iii) = pre ++ [modrmByte 3 rrr iii]) :
    SubReadsOnly 4 pre rrr (subMem k b) := fun mm iii => by
  by_cases h3 : mm = 3
  · subst h3
    exact readsOnly_op (hb _).1 (hb _).2
  · have e : subMem k b mm iii = fun bs => nextMem mm iii bs fun m => op (k m) := by funext bs; exact if_neg h3
    rw [e]
    exact readsOnly_mono (n := 2) (readsOnly_mem h3 fun m hm => readsOnly_op (h m hm).1 (h m hm).2) (by omega)

theorem readsOnly_op_repeat {f} (h : ∀ b, (f b).wf = true ∧
    encode (f b) = pre ++ [b]) : ReadsOnly 5 pre (opRepeat f) :=
  readsOnly_mono (n := 1) (readsOnly_byte (n := 0) fun b => readsOnly_op (h b).1 (h b).2) (by omega)

/-- The rows of byte CD. -/
theorem readsOnly_op_int : ReadsOnly 5 [0xCD] opInt := by
  refine readsOnly_mono (n := 1) (readsOnly_byte (n := 0) fun b => ?_) (by omega)
  split
  · rename_i h; obtain rfl : b = 0x86 := BitVec.eq_of_toNat_eq h
    exact readsOnly_op rfl rfl
  · rename_i h; obtain rfl : b = 0x87 := BitVec.eq_of_toNat_eq h
    exact readsOnly_op rfl rfl
  · rename_i h; obtain rfl : b = 0x88 := BitVec.eq_of_toNat_eq h
    exact readsOnly_op rfl rfl
  · refine readsOnly_op ?_ rfl
    rename_i h1 h2 h3; revert h1 h2 h3; revert b; decide +kernel

/-- The rows of byte 9B. -/
theorem readsOnly_op_nrg : ReadsOnly 5 [0x9B] opNrg := by
  refine readsOnly_mono (n := 3) (readsOnly_byte (n := 2) fun b => ?_) (by omega)
  split
  · rename_i h; exact readsOnly_op (by simpa [Instr.wf] using h) rfl
  · rename_i h; simp only [not_not] at h; subst h
    refine readsOnly_byte (n := 1) fun b => ?_
    split
    · rename_i h; exact readsOnly_op (by simpa [Instr.wf] using h) rfl
    · rename_i h; simp only [not_not] at h; subst h
      refine readsOnly_byte (n := 0) fun b => ?_
      split
      · rename_i h; exact readsOnly_op (by simpa [Instr.wf] using h) rfl
      · rename_i h; simp only [not_not] at h; subst h
        exact readsOnly_op rfl rfl

end Sys2Proof
end

