-- ==== Sys2Proof/Laws/State.lean ====
section
/-! SUPPORT. One lemma per field per update of the state records. -/

namespace Sys2Proof.Machine

/-! ### What an instruction works on -/

@[simp] theorem Cpu.setHart_params (c : Cpu) (g : Hart) : (c.setHart g).params = c.params := rfl

@[simp] theorem Cpu.setHart_hart (c : Cpu) (g : Hart) : (c.setHart g).hart = g := rfl

@[simp] theorem Cpu.setHart_mem (c : Cpu) (g : Hart) : (c.setHart g).mem = c.mem := rfl

@[simp] theorem Cpu.setHart_undefCount (c : Cpu) (g : Hart) : (c.setHart g).undefCount = c.undefCount := rfl

@[simp] theorem Cpu.setHart_events (c : Cpu) (g : Hart) : (c.setHart g).events = c.events := rfl

@[simp] theorem Cpu.setFlags_params (c : Cpu) (f : Flags) : (c.setFlags f).params = c.params := rfl

@[simp] theorem Cpu.setFlags_hart (c : Cpu) (f : Flags) : (c.setFlags f).hart = { c.hart with flags := f } := rfl

@[simp] theorem Cpu.setFlags_mem (c : Cpu) (f : Flags) : (c.setFlags f).mem = c.mem := rfl

@[simp] theorem Cpu.setFlags_undefCount (c : Cpu) (f : Flags) : (c.setFlags f).undefCount = c.undefCount := rfl

@[simp] theorem Cpu.setFlags_events (c : Cpu) (f : Flags) : (c.setFlags f).events = c.events := rfl

@[simp] theorem Cpu.store8_params (c : Cpu) (a : Addr) (v : Byte) : (c.store8 a v).params = c.params := rfl

@[simp] theorem Cpu.store8_hart (c : Cpu) (a : Addr) (v : Byte) : (c.store8 a v).hart = c.hart := rfl

@[simp] theorem Cpu.store8_mem (c : Cpu) (a : Addr) (v : Byte) : (c.store8 a v).mem = c.mem.write c.params (lin c.params a) v := rfl

@[simp] theorem Cpu.store8_undefCount (c : Cpu) (a : Addr) (v : Byte) : (c.store8 a v).undefCount = c.undefCount := rfl

@[simp] theorem Cpu.store8_events (c : Cpu) (a : Addr) (v : Byte) : (c.store8 a v).events = .write (lin c.params a) :: c.events := rfl

@[simp] theorem Cpu.takeUndef_params (c : Cpu) : (c.takeUndef).params = c.params := rfl

@[simp] theorem Cpu.takeUndef_hart (c : Cpu) : (c.takeUndef).hart = c.hart := rfl

@[simp] theorem Cpu.takeUndef_mem (c : Cpu) : (c.takeUndef).mem = c.mem := rfl

@[simp] theorem Cpu.takeUndef_undefCount (c : Cpu) : (c.takeUndef).undefCount = c.undefCount + 1 := rfl

@[simp] theorem Cpu.takeUndef_events (c : Cpu) : (c.takeUndef).events = c.events := rfl

/-! ### The block -/

@[simp] theorem State.cpu_params (s : State) (h : Hart) : (s.cpu h).params = s.params := rfl

@[simp] theorem State.cpu_hart (s : State) (h : Hart) : (s.cpu h).hart = h := rfl

@[simp] theorem State.cpu_mem (s : State) (h : Hart) : (s.cpu h).mem = s.mem := rfl

@[simp] theorem State.cpu_undefCount (s : State) (h : Hart) : (s.cpu h).undefCount = s.undefCount := rfl

@[simp] theorem State.cpu_events (s : State) (h : Hart) : (s.cpu h).events = s.events := rfl

@[simp] theorem State.commit_params (s : State) (c : Cpu) : (s.commit c).params = s.params := rfl

@[simp] theorem State.commit_harts (s : State) (c : Cpu) : (s.commit c).harts = s.harts.set s.turn c.hart := rfl

@[simp] theorem State.commit_mem (s : State) (c : Cpu) : (s.commit c).mem = c.mem := rfl

@[simp] theorem State.commit_round (s : State) (c : Cpu) : (s.commit c).round = s.round := rfl

@[simp] theorem State.commit_turn (s : State) (c : Cpu) : (s.commit c).turn = s.turn := rfl

@[simp] theorem State.commit_phase (s : State) (c : Cpu) : (s.commit c).phase = s.phase := rfl

@[simp] theorem State.commit_aliveCount (s : State) (c : Cpu) : (s.commit c).aliveCount = s.aliveCount := rfl

@[simp] theorem State.commit_deathCount (s : State) (c : Cpu) : (s.commit c).deathCount = s.deathCount := rfl

@[simp] theorem State.commit_endReason (s : State) (c : Cpu) : (s.commit c).endReason = s.endReason := rfl

@[simp] theorem State.commit_abort (s : State) (c : Cpu) : (s.commit c).abort = s.abort := rfl

@[simp] theorem State.commit_drawCount (s : State) (c : Cpu) : (s.commit c).drawCount = s.drawCount := rfl

@[simp] theorem State.commit_undefCount (s : State) (c : Cpu) : (s.commit c).undefCount = c.undefCount := rfl

@[simp] theorem State.commit_events (s : State) (c : Cpu) : (s.commit c).events = c.events := rfl

@[simp] theorem State.kill_params (s : State) (f : HartFault) : (s.kill f).params = s.params := rfl

@[simp] theorem State.kill_harts (s : State) (f : HartFault) : (s.kill f).harts = s.harts.modify s.turn fun h => { h with alive := false } := rfl

@[simp] theorem State.kill_mem (s : State) (f : HartFault) : (s.kill f).mem = s.mem := rfl

@[simp] theorem State.kill_round (s : State) (f : HartFault) : (s.kill f).round = s.round := rfl

@[simp] theorem State.kill_turn (s : State) (f : HartFault) : (s.kill f).turn = s.turn := rfl

@[simp] theorem State.kill_phase (s : State) (f : HartFault) : (s.kill f).phase = s.phase := rfl

@[simp] theorem State.kill_aliveCount (s : State) (f : HartFault) : (s.kill f).aliveCount = s.aliveCount - 1 := rfl

@[simp] theorem State.kill_deathCount (s : State) (f : HartFault) : (s.kill f).deathCount = s.deathCount + 1 := rfl

@[simp] theorem State.kill_endReason (s : State) (f : HartFault) : (s.kill f).endReason = s.endReason := rfl

@[simp] theorem State.kill_abort (s : State) (f : HartFault) : (s.kill f).abort = s.abort := rfl

@[simp] theorem State.kill_drawCount (s : State) (f : HartFault) : (s.kill f).drawCount = s.drawCount := rfl

@[simp] theorem State.kill_undefCount (s : State) (f : HartFault) : (s.kill f).undefCount = s.undefCount := rfl

@[simp] theorem State.kill_events (s : State) (f : HartFault) : (s.kill f).events = .death s.turn f :: s.events := rfl

@[simp] theorem State.advance_params (s : State) (n : Nat) : (s.advance n).params = s.params := rfl

@[simp] theorem State.advance_harts (s : State) (n : Nat) : (s.advance n).harts = s.harts.modify s.turn fun h => h.advance n := rfl

@[simp] theorem State.advance_mem (s : State) (n : Nat) : (s.advance n).mem = s.mem := rfl

@[simp] theorem State.advance_round (s : State) (n : Nat) : (s.advance n).round = s.round := rfl

@[simp] theorem State.advance_turn (s : State) (n : Nat) : (s.advance n).turn = s.turn := rfl

@[simp] theorem State.advance_phase (s : State) (n : Nat) : (s.advance n).phase = s.phase := rfl

@[simp] theorem State.advance_aliveCount (s : State) (n : Nat) : (s.advance n).aliveCount = s.aliveCount := rfl

@[simp] theorem State.advance_deathCount (s : State) (n : Nat) : (s.advance n).deathCount = s.deathCount := rfl

@[simp] theorem State.advance_endReason (s : State) (n : Nat) : (s.advance n).endReason = s.endReason := rfl

@[simp] theorem State.advance_abort (s : State) (n : Nat) : (s.advance n).abort = s.abort := rfl

@[simp] theorem State.advance_drawCount (s : State) (n : Nat) : (s.advance n).drawCount = s.drawCount := rfl

@[simp] theorem State.advance_undefCount (s : State) (n : Nat) : (s.advance n).undefCount = s.undefCount := rfl

@[simp] theorem State.advance_events (s : State) (n : Nat) : (s.advance n).events = s.events := rfl

@[simp] theorem State.finish_params (s : State) (r : EndReason) : (s.finish r).params = s.params := rfl

@[simp] theorem State.finish_harts (s : State) (r : EndReason) : (s.finish r).harts = s.harts := rfl

@[simp] theorem State.finish_mem (s : State) (r : EndReason) : (s.finish r).mem = s.mem := rfl

@[simp] theorem State.finish_round (s : State) (r : EndReason) : (s.finish r).round = s.round := rfl

@[simp] theorem State.finish_turn (s : State) (r : EndReason) : (s.finish r).turn = s.turn := rfl

@[simp] theorem State.finish_phase (s : State) (r : EndReason) : (s.finish r).phase = s.phase := rfl

@[simp] theorem State.finish_aliveCount (s : State) (r : EndReason) : (s.finish r).aliveCount = s.aliveCount := rfl

@[simp] theorem State.finish_deathCount (s : State) (r : EndReason) : (s.finish r).deathCount = s.deathCount := rfl

@[simp] theorem State.finish_endReason (s : State) (r : EndReason) : (s.finish r).endReason = some r := rfl

@[simp] theorem State.finish_abort (s : State) (r : EndReason) : (s.finish r).abort = s.abort := rfl

@[simp] theorem State.finish_drawCount (s : State) (r : EndReason) : (s.finish r).drawCount = s.drawCount := rfl

@[simp] theorem State.finish_undefCount (s : State) (r : EndReason) : (s.finish r).undefCount = s.undefCount := rfl

@[simp] theorem State.finish_events (s : State) (r : EndReason) : (s.finish r).events = .warEnd r s.winners :: s.events := rfl

@[simp] theorem State.raiseAbort_params (s : State) : (s.raiseAbort).params = s.params := rfl

@[simp] theorem State.raiseAbort_harts (s : State) : (s.raiseAbort).harts = s.harts := rfl

@[simp] theorem State.raiseAbort_mem (s : State) : (s.raiseAbort).mem = s.mem := rfl

@[simp] theorem State.raiseAbort_round (s : State) : (s.raiseAbort).round = s.round := rfl

@[simp] theorem State.raiseAbort_turn (s : State) : (s.raiseAbort).turn = s.turn := rfl

@[simp] theorem State.raiseAbort_phase (s : State) : (s.raiseAbort).phase = s.phase := rfl

@[simp] theorem State.raiseAbort_aliveCount (s : State) : (s.raiseAbort).aliveCount = s.aliveCount := rfl

@[simp] theorem State.raiseAbort_deathCount (s : State) : (s.raiseAbort).deathCount = s.deathCount := rfl

@[simp] theorem State.raiseAbort_endReason (s : State) : (s.raiseAbort).endReason = s.endReason := rfl

@[simp] theorem State.raiseAbort_abort (s : State) : (s.raiseAbort).abort = true := rfl

@[simp] theorem State.raiseAbort_drawCount (s : State) : (s.raiseAbort).drawCount = s.drawCount := rfl

@[simp] theorem State.raiseAbort_undefCount (s : State) : (s.raiseAbort).undefCount = s.undefCount := rfl

@[simp] theorem State.raiseAbort_events (s : State) : (s.raiseAbort).events = s.events := rfl

end Sys2Proof.Machine
end

