-- ==== Sys2Proof/Laws/Exec.lean ====
section
/-! SUPPORT. What the pieces of an instruction do, once: the sequencing of `Exec`, the access primitives, the stack, the
operands, and `perform`. -/

namespace Sys2Proof.Machine

/-! ### Sequencing -/

@[simp] theorem exec_bind {α β : Type} (m : Exec α) (k : α → Exec β) (c : Cpu) :
    (m >>= k) c = match m c with
      | .ok a c' => k a c'
      | .error f c' => .error f c' := by
  show EStateM.bind m k c = _
  unfold EStateM.bind
  cases m c <;> rfl

/-- One step of a sequence whose first piece goes on. -/
theorem exec_bind_ok {α β : Type} {m : Exec α} {k : α → Exec β} {c c' : Cpu} {a : α} (h : m c = .ok a c') :
    (m >>= k) c = k a c' := by
  rw [exec_bind, h]

/-- One step of a sequence whose first piece raises a fault. -/
theorem exec_bind_error {α β : Type} {m : Exec α} {k : α → Exec β} {c c' : Cpu} {f : HartFault}
    (h : m c = .error f c') : (m >>= k) c = .error f c' := by
  rw [exec_bind, h]

@[simp] theorem exec_pure {α : Type} (a : α) (c : Cpu) : (pure a : Exec α) c = .ok a c := rfl

@[simp] theorem getParams_apply (c : Cpu) : getParams c = .ok c.params c := rfl

@[simp] theorem getHart_apply (c : Cpu) : getHart c = .ok c.hart c := rfl

@[simp] theorem modHart_apply (f : Hart → Hart) (c : Cpu) : modHart f c = .ok () (c.setHart (f c.hart)) := rfl

@[simp] theorem modFlags_apply (f : Flags → Flags) (c : Cpu) : modFlags f c = .ok () (c.setFlags (f c.hart.flags)) := rfl

@[simp] theorem raise_apply {α : Type} (f : HartFault) (c : Cpu) : (raise f : Exec α) c = .error f c := rfl

@[simp] theorem freeFlags_apply (c : Cpu) : freeFlags c = .ok c.undef c.takeUndef := rfl

/-! ### The access primitives -/

theorem memRead8_ok {c : Cpu} {a : Addr} (h : c.CanRead8 a) : memRead8 a c = .ok (c.byteAt a) c := by
  simp only [memRead8, readByte, Cpu.byteAt]
  exact if_pos h

theorem memRead16_ok {c : Cpu} {a : Addr} (h : c.CanRead16 a) : memRead16 a c = .ok (c.wordAt a) c := by
  have h1 := memRead8_ok h.1
  have h2 := memRead8_ok h.2
  simp only [memRead8] at h1 h2
  simp only [memRead16, exec_bind, h1, h2, exec_pure, Cpu.wordAt]

theorem memWrite8_ok {c : Cpu} {a : Addr} (h : c.CanWrite8 a) (v : Byte) :
    memWrite8 a v c = .ok () (c.store8 a v) := by
  simp only [memWrite8, writeByte, Cpu.store8]
  exact if_pos h

@[simp] theorem store8_hart (c : Cpu) (a : Addr) (v : Byte) : (c.store8 a v).hart = c.hart := rfl

@[simp] theorem store16_params (c : Cpu) (a : Addr) (v : Word) : (c.store16 a v).params = c.params := rfl

@[simp] theorem store16_hart (c : Cpu) (a : Addr) (v : Word) : (c.store16 a v).hart = c.hart := rfl

theorem memWrite16_ok {c : Cpu} {a : Addr} (h : c.CanWrite16 a) (v : Word) :
    memWrite16 a v c = .ok () (c.store16 a v) := by
  have h1 := memWrite8_ok h.1 (lowByte v)
  have h2 := memWrite8_ok (c := c.store8 a (lowByte v)) h.2 (highByte v)
  simp only [memWrite8] at h1 h2
  simp only [memWrite16, exec_bind, h1, h2, Cpu.store16]

/-- What a byte access answers when it is denied (R75, R76, R88). -/
theorem readByte_denied {c : Cpu} {ch : Channel} {a : Addr} (h : allowed c.params c.hart.perm (lin c.params a) ch = false) :
    readByte ch a c = .error (.memoryFault ch (lin c.params a)) c := by
  simp [readByte, h]

theorem writeByte_denied {c : Cpu} {a : Addr} {v : Byte} (h : allowed c.params c.hart.perm (lin c.params a) .write = false) :
    writeByte a v c = .error (.memoryFault .write (lin c.params a)) c := by
  simp [writeByte, h]

@[simp] theorem byteAt_setFlags (c : Cpu) (f : Flags) (a : Addr) : (c.setFlags f).byteAt a = c.byteAt a := rfl

@[simp] theorem wordAt_setFlags (c : Cpu) (f : Flags) (a : Addr) : (c.setFlags f).wordAt a = c.wordAt a := rfl

@[simp] theorem byteAt_setHart (c : Cpu) (g : Hart) (a : Addr) : (c.setHart g).byteAt a = c.byteAt a := rfl

@[simp] theorem wordAt_setHart (c : Cpu) (g : Hart) (a : Addr) : (c.setHart g).wordAt a = c.wordAt a := rfl

/-! ### The stack -/

theorem push16_ok {c : Cpu} (h : c.CanWrite16 ⟨c.hart.SS, c.hart.SP - 2⟩) (v : Word) :
    push16 v c = .ok () (c.push v) := by
  have h' : (c.setHart { c.hart with SP := c.hart.SP - 2 }).CanWrite16 ⟨c.hart.SS, c.hart.SP - 2⟩ := h
  simp only [push16, exec_bind, modHart_apply, getHart_apply, Cpu.push]
  exact memWrite16_ok h' v

theorem pop16_ok {c : Cpu} (h : c.CanRead16 ⟨c.hart.SS, c.hart.SP⟩) :
    pop16 c = .ok (c.wordAt ⟨c.hart.SS, c.hart.SP⟩) (c.setHart { c.hart with SP := c.hart.SP + 2 }) := by
  simp only [pop16, exec_bind, getHart_apply, memRead16_ok h, modHart_apply, exec_pure]

/-! ### Operands -/

@[simp] theorem withRm8_apply (rm : Rm8) (k : Operand 8 → Exec Unit) (c : Cpu) :
    withRm8 rm k c = k (c.hart.operand8 rm) c := by
  simp only [withRm8, exec_bind, getHart_apply]

@[simp] theorem withRm16_apply (rm : Rm16) (k : Operand 16 → Exec Unit) (c : Cpu) :
    withRm16 rm k c = k (c.hart.operand16 rm) c := by
  simp only [withRm16, exec_bind, getHart_apply]

@[simp] theorem byteReg_get (r : Reg8) (c : Cpu) : (byteReg r).get c = .ok (c.hart.get8 r) c := rfl

@[simp] theorem byteReg_set (r : Reg8) (v : Byte) (c : Cpu) :
    (byteReg r).set v c = .ok () (c.setHart (c.hart.set8 r v)) := rfl

@[simp] theorem wordReg_get (r : Reg16) (c : Cpu) : (wordReg r).get c = .ok (c.hart.get16 r) c := rfl

@[simp] theorem wordReg_set (r : Reg16) (v : Word) (c : Cpu) :
    (wordReg r).set v c = .ok () (c.setHart (c.hart.set16 r v)) := rfl

@[simp] theorem immediate_get {n : Nat} (v : BitVec n) (c : Cpu) : (immediate v).get c = .ok v c := rfl

theorem operand8_get_ok {c : Cpu} {rm : Rm8} (h : c.Readable8 rm) :
    (c.hart.operand8 rm).get c = .ok (c.readRm8 rm) c := by
  cases rm with
  | reg r => rfl
  | mem m => exact memRead8_ok h

theorem operand16_get_ok {c : Cpu} {rm : Rm16} (h : c.Readable16 rm) :
    (c.hart.operand16 rm).get c = .ok (c.readRm16 rm) c := by
  cases rm with
  | reg r => rfl
  | mem m => exact memRead16_ok h

/-- Assigning an `Eb` operand resolved by registers with the same effective addresses and rights. -/
theorem operand8_set_ok {c d : Cpu} {rm : Rm8} (h : d.Writable8 rm) (hq : c.params = d.params)
    (hp : c.hart.perm = d.hart.perm) (he : ∀ m, c.hart.ea m = d.hart.ea m) (v : Byte) :
    (d.hart.operand8 rm).set v c = .ok () (c.writeRm8 rm v) := by
  cases rm with
  | reg r => rfl
  | mem m =>
    have h' : c.CanWrite8 (d.hart.ea m) := by
      unfold Cpu.CanWrite8; rw [hq, hp]; exact h
    simp only [Cpu.writeRm8, he]
    exact memWrite8_ok h' v

/-- Assigning an `Ew` operand resolved by registers with the same effective addresses and rights. -/
theorem operand16_set_ok {c d : Cpu} {rm : Rm16} (h : d.Writable16 rm) (hq : c.params = d.params)
    (hp : c.hart.perm = d.hart.perm) (he : ∀ m, c.hart.ea m = d.hart.ea m) (v : Word) :
    (d.hart.operand16 rm).set v c = .ok () (c.writeRm16 rm v) := by
  cases rm with
  | reg r => rfl
  | mem m =>
    have h' : c.CanWrite16 (d.hart.ea m) := by
      unfold Cpu.CanWrite16 Cpu.CanWrite8; rw [hq, hp]; exact h
    simp only [Cpu.writeRm16, he]
    exact memWrite16_ok h' v

/-- FLAGS play no part in an effective address. -/
theorem ea_flags (h : Hart) (f : Flags) (m : MemOp) : { h with flags := f }.ea m = h.ea m := by
  cases m <;> rfl

/-- Assigning a resolved `Eb` operand after the flags. -/
theorem operand8_set_flags {c : Cpu} {rm : Rm8} (h : c.Writable8 rm) (f : Flags) (v : Byte) :
    (c.hart.operand8 rm).set v (c.setFlags f) = .ok () ((c.setFlags f).writeRm8 rm v) :=
  operand8_set_ok (c := c.setFlags f) h rfl rfl (fun m => ea_flags _ _ m) v

/-- Assigning a resolved `Ew` operand after the flags. -/
theorem operand16_set_flags {c : Cpu} {rm : Rm16} (h : c.Writable16 rm) (f : Flags) (v : Word) :
    (c.hart.operand16 rm).set v (c.setFlags f) = .ok () ((c.setFlags f).writeRm16 rm v) :=
  operand16_set_ok (c := c.setFlags f) h rfl rfl (fun m => ea_flags _ _ m) v

/-! ### Running an instruction -/

theorem perform_ok {s : State} {h : Hart} {m : Exec Unit} {c : Cpu} (hr : s.Running h)
    (hm : m (s.cpu h) = .ok () c) : perform m s = .next (s.commit c) := by
  have hr' : s.harts[s.turn]? = some h := hr
  simp only [perform, hr', hm]

theorem perform_error {s : State} {h : Hart} {m : Exec Unit} {f : HartFault} {c : Cpu} (hr : s.Running h)
    (hm : m (s.cpu h) = .error f c) : perform m s = .next ((s.commit c).kill f) := by
  have hr' : s.harts[s.turn]? = some h := hr
  simp only [perform, hr', hm]

/-- What `perform` can answer, once: nothing but what the instruction's operations did, with the hart killed if they
raised a fault. -/
theorem perform_next {s t : State} {m : Exec Unit} (hp : perform m s = .next t) :
    ∃ h, s.Running h ∧
      ((∃ c, m (s.cpu h) = .ok () c ∧ t = s.commit c) ∨
       (∃ f c, m (s.cpu h) = .error f c ∧ t = (s.commit c).kill f)) := by
  unfold perform at hp
  cases hr : s.harts[s.turn]? with
  | none => simp [hr] at hp
  | some h =>
    refine ⟨h, hr, ?_⟩
    simp only [hr] at hp
    cases hm : m (s.cpu h) with
    | ok a c =>
      simp only [hm, Host.Outcome.next.injEq] at hp
      exact .inl ⟨c, rfl, hp.symm⟩
    | error f c =>
      simp only [hm, Host.Outcome.next.injEq] at hp
      exact .inr ⟨f, c, rfl, hp.symm⟩

/-- Working on nothing changes nothing. -/
theorem commit_cpu {s : State} {h : Hart} (hr : s.Running h) : s.commit (s.cpu h) = s := by
  have hr' : s.harts[s.turn]? = some h := hr
  have : s.harts.set s.turn h = s.harts := by
    apply List.ext_getElem?
    intro i
    rw [List.getElem?_set]
    split
    · rename_i hi
      subst hi
      split
      · exact hr'.symm
      · rename_i hl
        rw [List.getElem?_eq_none (by omega)] at hr'
        cases hr'
    · rfl
  simp only [State.commit, State.cpu, this]

end Sys2Proof.Machine
end

