-- ==== Sys2Proof/Laws/Families.lean ====
section
/-! SUPPORT. What each shared operation of the families does where nothing is denied. -/

namespace Sys2Proof.Machine

/-! ### The ALU -/

/-- The `UNDEF` word plays no part where nothing is left undefined. -/
theorem AluOp.apply_defined {n : Nat} {op : AluOp} (h : op.leavesUndefined = false) (a b : BitVec n) (f : Flags)
    (u v : Word) : op.apply a b f u = op.apply a b f v := by
  cases op <;> first | rfl | simp [AluOp.leavesUndefined] at h

theorem alu8_ok {c : Cpu} {op : AluOp} {rm : Rm8} {src : Operand 8} {b : Byte} (hr : c.Readable8 rm)
    (hw : op.writes = true → c.Writable8 rm) (hs : src.get c = .ok b c) :
    alu op (c.hart.operand8 rm) src c = .ok () (c.alu8 op rm (c.readRm8 rm) b) := by
  simp only [alu, exec_bind, operand8_get_ok hr, hs, freeFlagsIf, getHart_apply]
  cases hu : op.leavesUndefined with
  | false =>
    simp only [exec_pure, Bool.false_eq_true, if_false, Cpu.alu8, hu, modFlags_apply]
    rw [AluOp.apply_defined hu _ _ _ 0 c.undef]
    cases ho : op.writes with
    | false => rfl
    | true =>
      simp only [if_true]
      exact operand8_set_flags (hw ho) _ _
  | true =>
    simp only [freeFlags_apply, if_true, Cpu.alu8, hu, modFlags_apply]
    cases ho : op.writes with
    | false => rfl
    | true =>
      simp only [if_true]
      exact operand8_set_flags (c := c.takeUndef) (hw ho) _ _

theorem alu16_ok {c : Cpu} {op : AluOp} {rm : Rm16} {src : Operand 16} {b : Word} (hr : c.Readable16 rm)
    (hw : op.writes = true → c.Writable16 rm) (hs : src.get c = .ok b c) :
    alu op (c.hart.operand16 rm) src c = .ok () (c.alu16 op rm (c.readRm16 rm) b) := by
  simp only [alu, exec_bind, operand16_get_ok hr, hs, freeFlagsIf, getHart_apply]
  cases hu : op.leavesUndefined with
  | false =>
    simp only [exec_pure, Bool.false_eq_true, if_false, Cpu.alu16, hu, modFlags_apply]
    rw [AluOp.apply_defined hu _ _ _ 0 c.undef]
    cases ho : op.writes with
    | false => rfl
    | true =>
      simp only [if_true]
      exact operand16_set_flags (hw ho) _ _
  | true =>
    simp only [freeFlags_apply, if_true, Cpu.alu16, hu, modFlags_apply]
    cases ho : op.writes with
    | false => rfl
    | true =>
      simp only [if_true]
      exact operand16_set_flags (c := c.takeUndef) (hw ho) _ _

/-! ### One operand -/

theorem increment8_ok {c : Cpu} {rm : Rm8} (hr : c.Readable8 rm) (hw : c.Writable8 rm) :
    increment (c.hart.operand8 rm) c =
      .ok () ((c.setFlags (c.hart.flags.setIncDec (addN (c.readRm8 rm) 1 false))).writeRm8 rm
        (addN (c.readRm8 rm) 1 false).result) := by
  simp only [increment, exec_bind, operand8_get_ok hr, modFlags_apply]
  exact operand8_set_flags hw _ _

theorem increment16_ok {c : Cpu} {rm : Rm16} (hr : c.Readable16 rm) (hw : c.Writable16 rm) :
    increment (c.hart.operand16 rm) c =
      .ok () ((c.setFlags (c.hart.flags.setIncDec (addN (c.readRm16 rm) 1 false))).writeRm16 rm
        (addN (c.readRm16 rm) 1 false).result) := by
  simp only [increment, exec_bind, operand16_get_ok hr, modFlags_apply]
  exact operand16_set_flags hw _ _

theorem decrement8_ok {c : Cpu} {rm : Rm8} (hr : c.Readable8 rm) (hw : c.Writable8 rm) :
    decrement (c.hart.operand8 rm) c =
      .ok () ((c.setFlags (c.hart.flags.setIncDec (subN (c.readRm8 rm) 1 false))).writeRm8 rm
        (subN (c.readRm8 rm) 1 false).result) := by
  simp only [decrement, exec_bind, operand8_get_ok hr, modFlags_apply]
  exact operand8_set_flags hw _ _

theorem decrement16_ok {c : Cpu} {rm : Rm16} (hr : c.Readable16 rm) (hw : c.Writable16 rm) :
    decrement (c.hart.operand16 rm) c =
      .ok () ((c.setFlags (c.hart.flags.setIncDec (subN (c.readRm16 rm) 1 false))).writeRm16 rm
        (subN (c.readRm16 rm) 1 false).result) := by
  simp only [decrement, exec_bind, operand16_get_ok hr, modFlags_apply]
  exact operand16_set_flags hw _ _

theorem complement8_ok {c : Cpu} {rm : Rm8} (hr : c.Readable8 rm) (hw : c.Writable8 rm) :
    complement (c.hart.operand8 rm) c = .ok () (c.writeRm8 rm (~~~(c.readRm8 rm))) := by
  simp only [complement, exec_bind, operand8_get_ok hr]
  exact operand8_set_ok hw rfl rfl (fun _ => rfl) _

theorem complement16_ok {c : Cpu} {rm : Rm16} (hr : c.Readable16 rm) (hw : c.Writable16 rm) :
    complement (c.hart.operand16 rm) c = .ok () (c.writeRm16 rm (~~~(c.readRm16 rm))) := by
  simp only [complement, exec_bind, operand16_get_ok hr]
  exact operand16_set_ok hw rfl rfl (fun _ => rfl) _

theorem negate8_ok {c : Cpu} {rm : Rm8} (hr : c.Readable8 rm) (hw : c.Writable8 rm) :
    negate (c.hart.operand8 rm) c =
      .ok () ((c.setFlags (c.hart.flags.setArith (subN 0 (c.readRm8 rm) false))).writeRm8 rm
        (subN 0 (c.readRm8 rm) false).result) := by
  simp only [negate, exec_bind, operand8_get_ok hr, modFlags_apply]
  exact operand8_set_flags hw _ _

theorem negate16_ok {c : Cpu} {rm : Rm16} (hr : c.Readable16 rm) (hw : c.Writable16 rm) :
    negate (c.hart.operand16 rm) c =
      .ok () ((c.setFlags (c.hart.flags.setArith (subN 0 (c.readRm16 rm) false))).writeRm16 rm
        (subN 0 (c.readRm16 rm) false).result) := by
  simp only [negate, exec_bind, operand16_get_ok hr, modFlags_apply]
  exact operand16_set_flags hw _ _

/-! ### Shifts and rotates -/

/-- The `UNDEF` word plays no part where nothing is left undefined. -/
theorem setShift_defined {n : Nat} {op : ShiftOp} {count : Nat} (h : shiftLeavesUndefined op count = false)
    (h0 : count ≠ 0) (f : Flags) (v r : BitVec n) (cf : Bool) (u w : Word) :
    f.setShift op count v r cf u = f.setShift op count v r cf w := by
  simp only [shiftLeavesUndefined, Bool.or_eq_false_iff, Bool.not_eq_false', decide_eq_false_iff_not] at h
  have h1 : count = 1 := by omega
  simp only [Flags.setShift, h.1, h1, if_true]

theorem setFlags_writeRm8 (c : Cpu) (rm : Rm8) (v : Byte) (f : Flags) :
    (c.writeRm8 rm v).setFlags f = (c.setFlags f).writeRm8 rm v := by
  cases rm with
  | reg r => cases r <;> rfl
  | mem m =>
    simp only [Cpu.writeRm8, Cpu.setFlags_hart, ea_flags]
    rfl

theorem setFlags_writeRm16 (c : Cpu) (rm : Rm16) (v : Word) (f : Flags) :
    (c.writeRm16 rm v).setFlags f = (c.setFlags f).writeRm16 rm v := by
  cases rm with
  | reg r => cases r <;> rfl
  | mem m =>
    simp only [Cpu.writeRm16, Cpu.setFlags_hart, ea_flags]
    rfl

theorem writeRm8_flags (c : Cpu) (rm : Rm8) (v : Byte) : (c.writeRm8 rm v).hart.flags = c.hart.flags := by
  cases rm with
  | reg r => cases r <;> rfl
  | mem m => rfl

theorem writeRm16_flags (c : Cpu) (rm : Rm16) (v : Word) : (c.writeRm16 rm v).hart.flags = c.hart.flags := by
  cases rm with
  | reg r => cases r <;> rfl
  | mem m => rfl

theorem takeUndef_writeRm8 (c : Cpu) (rm : Rm8) (v : Byte) :
    (c.writeRm8 rm v).takeUndef = c.takeUndef.writeRm8 rm v := by
  cases rm <;> rfl

theorem takeUndef_writeRm16 (c : Cpu) (rm : Rm16) (v : Word) :
    (c.writeRm16 rm v).takeUndef = c.takeUndef.writeRm16 rm v := by
  cases rm <;> rfl

theorem undef_writeRm8 (c : Cpu) (rm : Rm8) (v : Byte) : (c.writeRm8 rm v).undef = c.undef := by
  cases rm <;> rfl

theorem undef_writeRm16 (c : Cpu) (rm : Rm16) (v : Word) : (c.writeRm16 rm v).undef = c.undef := by
  cases rm <;> rfl

theorem shift8_ok {c : Cpu} {op : ShiftOp} {raw : Byte} {rm : Rm8} (hr : c.Readable8 rm)
    (hw : maskedCount c.params raw ≠ 0 → c.Writable8 rm) :
    shift op raw (c.hart.operand8 rm) c = .ok () (c.shift8 op raw rm) := by
  simp only [shift, exec_bind, getParams_apply, operand8_get_ok hr, Cpu.shift8]
  by_cases h0 : maskedCount c.params raw = 0
  · simp only [h0, if_true, exec_pure]
  · have hset := operand8_set_ok (hw h0) rfl rfl (fun _ => rfl)
      (shiftRepeat op (maskedCount c.params raw) (c.readRm8 rm) c.hart.flags.CF).1
    simp only [h0, if_false, exec_bind, getHart_apply, hset]
    cases hu : shiftLeavesUndefined op (maskedCount c.params raw) with
    | false =>
      simp only [Bool.false_eq_true, if_false, exec_bind, exec_pure, modFlags_apply, writeRm8_flags, setFlags_writeRm8]
      rw [setShift_defined hu h0 _ _ _ _ 0 c.undef]
    | true =>
      simp only [if_true, exec_bind, freeFlags_apply, modFlags_apply, Cpu.takeUndef_hart, writeRm8_flags, undef_writeRm8,
        takeUndef_writeRm8, setFlags_writeRm8]

theorem shift16_ok {c : Cpu} {op : ShiftOp} {raw : Byte} {rm : Rm16} (hr : c.Readable16 rm)
    (hw : maskedCount c.params raw ≠ 0 → c.Writable16 rm) :
    shift op raw (c.hart.operand16 rm) c = .ok () (c.shift16 op raw rm) := by
  simp only [shift, exec_bind, getParams_apply, operand16_get_ok hr, Cpu.shift16]
  by_cases h0 : maskedCount c.params raw = 0
  · simp only [h0, if_true, exec_pure]
  · have hset := operand16_set_ok (hw h0) rfl rfl (fun _ => rfl)
      (shiftRepeat op (maskedCount c.params raw) (c.readRm16 rm) c.hart.flags.CF).1
    simp only [h0, if_false, exec_bind, getHart_apply, hset]
    cases hu : shiftLeavesUndefined op (maskedCount c.params raw) with
    | false =>
      simp only [Bool.false_eq_true, if_false, exec_bind, exec_pure, modFlags_apply, writeRm16_flags, setFlags_writeRm16]
      rw [setShift_defined hu h0 _ _ _ _ 0 c.undef]
    | true =>
      simp only [if_true, exec_bind, freeFlags_apply, modFlags_apply, Cpu.takeUndef_hart, writeRm16_flags, undef_writeRm16,
        takeUndef_writeRm16, setFlags_writeRm16]

/-! ### Strings -/

theorem movsb_ok {c : Cpu} (hr : c.CanRead8 ⟨c.hart.DS, c.hart.SI⟩) (hw : c.CanWrite8 ⟨c.hart.ES, c.hart.DI⟩) :
    movs byteElement c = .ok () c.movsb := by
  simp only [movs, byteElement, exec_bind, getHart_apply, memRead8_ok hr, memWrite8_ok hw, advanceSi, advanceDi,
    modHart_apply]
  rfl

theorem movsw_ok {c : Cpu} (hr : c.CanRead16 ⟨c.hart.DS, c.hart.SI⟩)
    (hw : c.CanWrite16 ⟨c.hart.ES, c.hart.DI⟩) : movs wordElement c = .ok () c.movsw := by
  simp only [movs, wordElement, exec_bind, getHart_apply, memRead16_ok hr, memWrite16_ok hw, advanceSi, advanceDi,
    modHart_apply]
  rfl

theorem stosb_ok {c : Cpu} (hw : c.CanWrite8 ⟨c.hart.ES, c.hart.DI⟩) : stos byteElement c = .ok () c.stosb := by
  simp only [stos, byteElement, exec_bind, getHart_apply, memWrite8_ok hw, advanceDi, modHart_apply]
  rfl

theorem stosw_ok {c : Cpu} (hw : c.CanWrite16 ⟨c.hart.ES, c.hart.DI⟩) : stos wordElement c = .ok () c.stosw := by
  simp only [stos, wordElement, exec_bind, getHart_apply, memWrite16_ok hw, advanceDi, modHart_apply]
  rfl

theorem lodsb_ok {c : Cpu} (hr : c.CanRead8 ⟨c.hart.DS, c.hart.SI⟩) : lods byteElement c = .ok () c.lodsb := by
  simp only [lods, byteElement, exec_bind, getHart_apply, memRead8_ok hr, advanceSi, modHart_apply]
  rfl

theorem lodsw_ok {c : Cpu} (hr : c.CanRead16 ⟨c.hart.DS, c.hart.SI⟩) : lods wordElement c = .ok () c.lodsw := by
  simp only [lods, wordElement, exec_bind, getHart_apply, memRead16_ok hr, advanceSi, modHart_apply]
  rfl

theorem cmpsb_ok {c : Cpu} (hs : c.CanRead8 ⟨c.hart.DS, c.hart.SI⟩) (hd : c.CanRead8 ⟨c.hart.ES, c.hart.DI⟩) :
    cmps byteElement c = .ok () c.cmpsb := by
  simp only [cmps, byteElement, exec_bind, getHart_apply, memRead8_ok hs, memRead8_ok hd, modFlags_apply, advanceSi,
    advanceDi, modHart_apply]
  rfl

theorem cmpsw_ok {c : Cpu} (hs : c.CanRead16 ⟨c.hart.DS, c.hart.SI⟩)
    (hd : c.CanRead16 ⟨c.hart.ES, c.hart.DI⟩) : cmps wordElement c = .ok () c.cmpsw := by
  simp only [cmps, wordElement, exec_bind, getHart_apply, memRead16_ok hs, memRead16_ok hd, modFlags_apply, advanceSi,
    advanceDi, modHart_apply]
  rfl

theorem scasb_ok {c : Cpu} (hd : c.CanRead8 ⟨c.hart.ES, c.hart.DI⟩) : scas byteElement c = .ok () c.scasb := by
  simp only [scas, byteElement, exec_bind, getHart_apply, memRead8_ok hd, modFlags_apply, advanceDi, modHart_apply]
  rfl

theorem scasw_ok {c : Cpu} (hd : c.CanRead16 ⟨c.hart.ES, c.hart.DI⟩) : scas wordElement c = .ok () c.scasw := by
  simp only [scas, wordElement, exec_bind, getHart_apply, memRead16_ok hd, modFlags_apply, advanceDi, modHart_apply]
  rfl

/-- A repeated string instruction, by what each of its elements does: `ok k c` is what lets the next `k` run. -/
theorem repeatLoop_ok {body : Exec Unit} {one : Cpu → Cpu} {stop : Flags → Bool} {ok : Nat → Cpu → Prop}
    (hb : ∀ k c, ok (k + 1) c → body c = .ok () (one c))
    (hn : ∀ k c, ok (k + 1) c → ok k ((one c).setHart { (one c).hart with CX := (one c).hart.CX - 1 })) :
    ∀ k c, ok k c → repeatLoop body stop k c = .ok () (Cpu.repeated one stop k c) := by
  intro k
  induction k with
  | zero => intro c _; rfl
  | succ k ih =>
    intro c hc
    simp only [repeatLoop, exec_bind, hb k c hc, modHart_apply, getHart_apply, Cpu.repeated]
    split
    · rfl
    · exact ih _ (hn k c hc)

/-! ### Multiplication and division -/

theorem mulFlags_ok (c : Cpu) (wide : Bool) : mulFlags wide c = .ok () (c.mulFlagged wide) := rfl

theorem divFlags_ok (c : Cpu) : divFlags c = .ok () c.divFlagged := rfl

/-! ### The stack, interrupts, ENTER and the bombs -/

theorem canRead8_perm {c d : Cpu} (hq : c.params = d.params) (hp : c.hart.perm = d.hart.perm) {a : Addr}
    (hr : d.CanRead8 a) : c.CanRead8 a := by
  unfold Cpu.CanRead8; rw [hq, hp]; exact hr

theorem canWrite8_perm {c d : Cpu} (hq : c.params = d.params) (hp : c.hart.perm = d.hart.perm) {a : Addr}
    (hr : d.CanWrite8 a) : c.CanWrite8 a := by
  unfold Cpu.CanWrite8; rw [hq, hp]; exact hr

theorem canRead16_perm {c d : Cpu} (hq : c.params = d.params) (hp : c.hart.perm = d.hart.perm) {a : Addr}
    (hr : d.CanRead16 a) : c.CanRead16 a := ⟨canRead8_perm hq hp hr.1, canRead8_perm hq hp hr.2⟩

theorem canWrite16_perm {c d : Cpu} (hq : c.params = d.params) (hp : c.hart.perm = d.hart.perm) {a : Addr}
    (hr : d.CanWrite16 a) : c.CanWrite16 a := ⟨canWrite8_perm hq hp hr.1, canWrite8_perm hq hp hr.2⟩

/-- The slot of the `k`th push to come, after one push. -/
theorem pushSlot_push (h : Hart) (k : Nat) : { h with SP := h.SP - 2 }.pushSlot k = h.pushSlot (k + 1) := by
  simp only [Hart.pushSlot, Addr.mk.injEq, true_and]
  apply BitVec.eq_of_toNat_eq
  have h2 : (2 : Word).toNat = 2 := rfl
  simp only [BitVec.toNat_sub, BitVec.toNat_ofNat, h2]
  omega

theorem popSlot_pop (h : Hart) (k : Nat) : { h with SP := h.SP + 2 }.popSlot k = h.popSlot (k + 1) := by
  simp only [Hart.popSlot, Addr.mk.injEq, true_and]
  apply BitVec.eq_of_toNat_eq
  have h2 : (2 : Word).toNat = 2 := rfl
  simp only [BitVec.toNat_add, BitVec.toNat_ofNat, h2]
  omega

/-- The elements still to come, after SI moved by one. -/
theorem source_next {g h : Hart} (b k : Nat) (hd : g.DS = h.DS) (hf : g.flags.DF = h.flags.DF)
    (hs : g.SI = h.SI + stringStep (BitVec.ofNat 16 b) h) : g.source b k = h.source b (k + 1) := by
  have e : stringStep (BitVec.ofNat 16 b) g = stringStep (BitVec.ofNat 16 b) h := by simp only [stringStep, hf]
  simp only [Hart.source, hd, hs, e, Addr.mk.injEq, true_and]
  rw [BitVec.ofNat_add, BitVec.add_assoc, BitVec.add_comm (BitVec.ofNat 16 k), BitVec.add_mul]
  simp

/-- The elements still to come, after DI moved by one. -/
theorem target_next {g h : Hart} (b k : Nat) (hd : g.ES = h.ES) (hf : g.flags.DF = h.flags.DF)
    (hs : g.DI = h.DI + stringStep (BitVec.ofNat 16 b) h) : g.target b k = h.target b (k + 1) := by
  have e : stringStep (BitVec.ofNat 16 b) g = stringStep (BitVec.ofNat 16 b) h := by simp only [stringStep, hf]
  simp only [Hart.target, hd, hs, e, Addr.mk.injEq, true_and]
  rw [BitVec.ofNat_add, BitVec.add_assoc, BitVec.add_comm (BitVec.ofNat 16 k), BitVec.add_mul]
  simp

@[simp] theorem source_zero (h : Hart) (b : Nat) : h.source b 0 = ⟨h.DS, h.SI⟩ := by simp [Hart.source]

@[simp] theorem target_zero (h : Hart) (b : Nat) : h.target b 0 = ⟨h.ES, h.DI⟩ := by simp [Hart.target]

theorem source_next_read8 {c d : Cpu} {b k : Nat} (hq : c.params = d.params) (hp : c.hart.perm = d.hart.perm)
    (hd : c.hart.DS = d.hart.DS) (hf : c.hart.flags.DF = d.hart.flags.DF)
    (hs : c.hart.SI = d.hart.SI + stringStep (BitVec.ofNat 16 b) d.hart)
    (hc : d.CanRead8 (d.hart.source b (k + 1))) : c.CanRead8 (c.hart.source b k) := by
  rw [source_next b k hd hf hs]; exact canRead8_perm hq hp hc

theorem source_next_read16 {c d : Cpu} {b k : Nat} (hq : c.params = d.params) (hp : c.hart.perm = d.hart.perm)
    (hd : c.hart.DS = d.hart.DS) (hf : c.hart.flags.DF = d.hart.flags.DF)
    (hs : c.hart.SI = d.hart.SI + stringStep (BitVec.ofNat 16 b) d.hart)
    (hc : d.CanRead16 (d.hart.source b (k + 1))) : c.CanRead16 (c.hart.source b k) := by
  rw [source_next b k hd hf hs]; exact canRead16_perm hq hp hc

theorem target_next_read8 {c d : Cpu} {b k : Nat} (hq : c.params = d.params) (hp : c.hart.perm = d.hart.perm)
    (hd : c.hart.ES = d.hart.ES) (hf : c.hart.flags.DF = d.hart.flags.DF)
    (hs : c.hart.DI = d.hart.DI + stringStep (BitVec.ofNat 16 b) d.hart)
    (hc : d.CanRead8 (d.hart.target b (k + 1))) : c.CanRead8 (c.hart.target b k) := by
  rw [target_next b k hd hf hs]; exact canRead8_perm hq hp hc

theorem target_next_read16 {c d : Cpu} {b k : Nat} (hq : c.params = d.params) (hp : c.hart.perm = d.hart.perm)
    (hd : c.hart.ES = d.hart.ES) (hf : c.hart.flags.DF = d.hart.flags.DF)
    (hs : c.hart.DI = d.hart.DI + stringStep (BitVec.ofNat 16 b) d.hart)
    (hc : d.CanRead16 (d.hart.target b (k + 1))) : c.CanRead16 (c.hart.target b k) := by
  rw [target_next b k hd hf hs]; exact canRead16_perm hq hp hc

theorem target_next_write8 {c d : Cpu} {b k : Nat} (hq : c.params = d.params) (hp : c.hart.perm = d.hart.perm)
    (hd : c.hart.ES = d.hart.ES) (hf : c.hart.flags.DF = d.hart.flags.DF)
    (hs : c.hart.DI = d.hart.DI + stringStep (BitVec.ofNat 16 b) d.hart)
    (hc : d.CanWrite8 (d.hart.target b (k + 1))) : c.CanWrite8 (c.hart.target b k) := by
  rw [target_next b k hd hf hs]; exact canWrite8_perm hq hp hc

theorem target_next_write16 {c d : Cpu} {b k : Nat} (hq : c.params = d.params) (hp : c.hart.perm = d.hart.perm)
    (hd : c.hart.ES = d.hart.ES) (hf : c.hart.flags.DF = d.hart.flags.DF)
    (hs : c.hart.DI = d.hart.DI + stringStep (BitVec.ofNat 16 b) d.hart)
    (hc : d.CanWrite16 (d.hart.target b (k + 1))) : c.CanWrite16 (c.hart.target b k) := by
  rw [target_next b k hd hf hs]; exact canWrite16_perm hq hp hc

/-- A repeated string instruction, where `P k` lets the `k`th element to come be accessed. -/
theorem repeatString_ok {body : Exec Unit} {one : Cpu → Cpu} (stop : Flags → Bool) (P : Cpu → Nat → Prop) {c : Cpu}
    (hb : ∀ c : Cpu, P c 0 → body c = .ok () (one c))
    (hn : ∀ (c : Cpu) (k : Nat), P c (k + 1) →
      P ((one c).setHart { (one c).hart with CX := (one c).hart.CX - 1 }) k)
    (hp : ∀ k, k < c.hart.CX.toNat → P c k) :
    repeatString body stop c = .ok () (Cpu.repeated one stop c.hart.CX.toNat c) := by
  refine Eq.trans (exec_bind_ok (getHart_apply _)) ?_
  exact repeatLoop_ok (ok := fun k c => ∀ j, j < k → P c j)
    (fun k c hc => hb c (hc 0 (Nat.succ_pos k)))
    (fun k c hc j hj => hn c j (hc (j + 1) (Nat.succ_lt_succ hj))) _ _ hp

theorem canPush_congr {c d : Cpu} {n : Nat} (hq : c.params = d.params) (hp : c.hart.perm = d.hart.perm)
    (hs : c.hart.SS = d.hart.SS) (hsp : c.hart.SP = d.hart.SP) (hc : d.CanPush n) : c.CanPush n := by
  intro k hk
  have := hc k hk
  simp only [Hart.pushSlot, hs, hsp]
  exact canWrite16_perm hq hp this

theorem canPop_congr {c d : Cpu} {n : Nat} (hq : c.params = d.params) (hp : c.hart.perm = d.hart.perm)
    (hs : c.hart.SS = d.hart.SS) (hsp : c.hart.SP = d.hart.SP) (hc : d.CanPop n) : c.CanPop n := by
  intro k hk
  have := hc k hk
  simp only [Hart.popSlot, hs, hsp]
  exact canRead16_perm hq hp this

@[simp] theorem push_params (c : Cpu) (v : Word) : (c.push v).params = c.params := rfl

@[simp] theorem push_hart (c : Cpu) (v : Word) : (c.push v).hart = { c.hart with SP := c.hart.SP - 2 } := rfl

/-- One push of several to come. -/
theorem push_ok {c : Cpu} {n : Nat} (h : c.CanPush (n + 1)) (v : Word) :
    push16 v c = .ok () (c.push v) ∧ (c.push v).CanPush n := by
  constructor
  · exact push16_ok (h 0 (Nat.succ_pos n)) v
  · intro k hk
    have := h (k + 1) (Nat.succ_lt_succ hk)
    rw [push_hart, pushSlot_push]
    exact canWrite16_perm rfl rfl this

/-- One pop of several to come. -/
theorem pop_ok {c : Cpu} {n : Nat} (h : c.CanPop (n + 1)) :
    pop16 c = .ok (c.stackWord 0) (c.setHart { c.hart with SP := c.hart.SP + 2 }) ∧
      (c.setHart { c.hart with SP := c.hart.SP + 2 }).CanPop n := by
  have h0 : c.hart.popSlot 0 = ⟨c.hart.SS, c.hart.SP⟩ := by simp [Hart.popSlot]
  constructor
  · have := h 0 (Nat.succ_pos n)
    rw [h0] at this
    rw [pop16_ok this, Cpu.stackWord, h0]
  · intro k hk
    have := h (k + 1) (Nat.succ_lt_succ hk)
    rw [Cpu.setHart_hart, popSlot_pop]
    exact canRead16_perm rfl rfl this

/-- The pop that reads the `k`th slot of what the hart started with. -/
theorem pop_slot {b : Cpu} {g : Hart} {k : Nat} (hp : g.perm = b.hart.perm) (hs : g.SS = b.hart.SS)
    (hsp : g.SP = b.hart.SP + BitVec.ofNat 16 (2 * k)) (h : b.CanRead16 (b.hart.popSlot k)) :
    pop16 (b.setHart g) =
      .ok (b.stackWord k) (b.setHart { g with SP := b.hart.SP + BitVec.ofNat 16 (2 * (k + 1)) }) := by
  have e : (⟨g.SS, g.SP⟩ : Addr) = b.hart.popSlot k := by rw [hs, hsp]; rfl
  have r : (b.setHart g).CanRead16 ⟨(b.setHart g).hart.SS, (b.setHart g).hart.SP⟩ := by
    rw [Cpu.setHart_hart, e]; exact canRead16_perm (c := b.setHart g) (d := b) rfl hp h
  have e2 : g.SP + 2 = b.hart.SP + BitVec.ofNat 16 (2 * (k + 1)) := by
    rw [hsp, BitVec.add_assoc]
    congr 1
    apply BitVec.eq_of_toNat_eq
    have h2 : (2 : Word).toNat = 2 := rfl
    simp only [BitVec.toNat_add, BitVec.toNat_ofNat, h2]
    omega
  rw [pop16_ok r, Cpu.setHart_hart, e, e2]
  rfl

theorem modHart_setHart (f : Hart → Hart) (b : Cpu) (g : Hart) :
    modHart f (b.setHart g) = .ok () (b.setHart (f g)) := rfl

@[simp] theorem pushFrame_params (c : Cpu) : c.pushFrame.params = c.params := by
  simp only [Cpu.pushFrame, push_params, Cpu.setFlags_params]

@[simp] theorem pushFrame_perm (c : Cpu) : c.pushFrame.hart.perm = c.hart.perm := by
  simp only [Cpu.pushFrame, push_hart, Cpu.setFlags_hart]

theorem push_setFlags (c : Cpu) (v : Word) (f : Flags) : (c.setFlags f).push v = (c.push v).setFlags f := rfl

/-- The three pushes of the dispatch, the flags cleared at the end. -/
theorem pushFrame_eq (c : Cpu) :
    c.pushFrame = (((c.push c.hart.flags.toWord).push c.hart.CS).push c.hart.IP).setFlags
      { c.hart.flags with IF := false, TF := false } := by
  simp only [Cpu.pushFrame, push_setFlags]

theorem dispatch_ok {c : Cpu} {n : Byte} (hp : c.CanPush 3) (ho : c.CanRead16 (vectorAddr n))
    (hs : c.CanRead16 (addOffset (vectorAddr n) 2)) : dispatch n c = .ok () (c.dispatched n) := by
  obtain ⟨h1, p1⟩ := push_ok hp c.hart.flags.toWord
  have p1' : ((c.push c.hart.flags.toWord).setFlags
      { c.hart.flags with IF := false, TF := false }).CanPush 2 :=
    canPush_congr (d := c.push c.hart.flags.toWord) rfl rfl rfl rfl p1
  obtain ⟨h2, p2⟩ := push_ok p1' c.hart.CS
  obtain ⟨h3, _⟩ := push_ok p2 c.hart.IP
  have ro : c.pushFrame.CanRead16 (vectorAddr n) := canRead16_perm (pushFrame_params c) (pushFrame_perm c) ho
  have rs : c.pushFrame.CanRead16 (addOffset (vectorAddr n) 2) := canRead16_perm (pushFrame_params c) (pushFrame_perm c) hs
  have f1 : (c.push c.hart.flags.toWord).hart.flags = c.hart.flags := rfl
  have f2 : ((c.push c.hart.flags.toWord).setFlags
      { c.hart.flags with IF := false, TF := false }).hart.CS = c.hart.CS := rfl
  simp only [dispatch, exec_bind, getHart_apply, h1, modFlags_apply, f1, h2, h3]
  have e : ((((c.push c.hart.flags.toWord).setFlags { c.hart.flags with IF := false, TF := false }).push
      c.hart.CS).push c.hart.IP) = c.pushFrame := rfl
  rw [e]
  simp only [memRead16_ok ro, memRead16_ok rs, modHart_apply]
  rfl

end Sys2Proof.Machine
end

