-- ==== Sys2Proof/Laws/Flags.lean ====
section
/-! SUPPORT. FLAGS as a word: which bit is which, and that reading all sixteen bits and writing them back are inverse. -/

namespace Sys2Proof.Machine

/-- Bit by bit (R29). -/
def Flags.bit (f : Flags) : Nat → Bool
  | 0 => f.CF
  | 1 => f.b1
  | 2 => f.PF
  | 3 => f.b3
  | 4 => f.AF
  | 5 => f.b5
  | 6 => f.ZF
  | 7 => f.SF
  | 8 => f.TF
  | 9 => f.IF
  | 10 => f.DF
  | 11 => f.OF
  | 12 => f.b12
  | 13 => f.b13
  | 14 => f.b14
  | 15 => f.b15
  | _ => false

theorem toWord_bit (f : Flags) (i : Nat) : f.toWord.getLsbD i = f.bit i := by
  by_cases hi : i < 16
  · unfold Flags.toWord
    interval_cases i <;> (simp only [BitVec.getLsbD_append, BitVec.getLsbD_ofBool]; rfl)
  · rw [BitVec.getLsbD_of_ge _ _ (by omega)]
    match i, hi with
    | n + 16, _ => rfl

/-- What the flags outside a mask being unchanged means, bit by bit. -/
theorem mask_eq_iff {f g : Flags} {m : Word} :
    g.toWord &&& ~~~m = f.toWord &&& ~~~m ↔ ∀ i, i < 16 → m.getLsbD i = false → g.bit i = f.bit i := by
  constructor
  · intro h i hi hm
    have := congrArg (fun w => BitVec.getLsbD w i) h
    simpa only [BitVec.getLsbD_and, BitVec.getLsbD_not, hm, hi, toWord_bit, decide_true, Bool.not_false,
      Bool.and_true, Bool.true_and] using this
  · intro h
    apply BitVec.eq_of_getLsbD_eq
    intro i hi
    rw [BitVec.getLsbD_and, BitVec.getLsbD_and, BitVec.getLsbD_not, toWord_bit, toWord_bit]
    cases hm : m.getLsbD i with
    | true => simp
    | false => simp [hi, h i hi hm]

@[simp] theorem ofWord_bit (w : Word) (i : Nat) : (Flags.ofWord w).bit i = w.getLsbD i := by
  by_cases hi : i < 16
  · interval_cases i <;> rfl
  · rw [BitVec.getLsbD_of_ge _ _ (by omega)]
    match i, hi with
    | n + 16, _ => rfl

@[simp] theorem toWord_ofWord (w : Word) : (Flags.ofWord w).toWord = w := by
  apply BitVec.eq_of_getLsbD_eq
  intro i _
  rw [toWord_bit, ofWord_bit]

@[simp] theorem ofWord_toWord (f : Flags) : Flags.ofWord f.toWord = f := by
  have h : ∀ i, (Flags.ofWord f.toWord).bit i = f.bit i := fun i => by rw [ofWord_bit, toWord_bit]
  have e (g : Flags) : g = ⟨g.bit 0, g.bit 1, g.bit 2, g.bit 3, g.bit 4, g.bit 5, g.bit 6, g.bit 7, g.bit 8, g.bit 9,
      g.bit 10, g.bit 11, g.bit 12, g.bit 13, g.bit 14, g.bit 15⟩ := rfl
  rw [e (Flags.ofWord f.toWord)]
  simp only [h]
  rfl

end Sys2Proof.Machine
end

