-- ==== Sys2Proof/Laws/Frames.lean ====
section
/-! SUPPORT. What an instruction can do to what it works on, once for every relation: a relation that allows the writes
an instruction may make holds between what it starts from and what it leaves, completing or faulting. -/

namespace Sys2Proof.Machine

/-! ### Staying inside a relation -/

/-- What is left of a piece that goes on or raises a fault. -/
def Exec.left {α : Type} : EStateM.Result HartFault Cpu α → Cpu
  | .ok _ c => c
  | .error _ c => c

/-- A piece of an instruction stays inside a relation. -/
def Stays {α : Type} (R : Cpu → Cpu → Prop) (m : Exec α) : Prop := ∀ c, R c (Exec.left (m c))

/-- The flags outside a mask are the same. -/
def Flags.Outside (M : Word) (g f : Flags) : Prop := g.toWord &&& ~~~M = f.toWord &&& ~~~M

/-- The flags that an operation of the shift group may write (R48). -/
def ShiftOp.mask (op : ShiftOp) : Word := if op.isRotate then 0x0801 else 0x08D5

/-- A relation that allows every write to registers and flags an instruction may make. -/
structure Leaves (R : Cpu → Cpu → Prop) (i : Instr) : Prop where
  refl : ∀ c, R c c
  trans : ∀ {c d e}, R c d → R d e → R c e
  undef : ∀ c, R c c.takeUndef
  byte : ∀ q, q ∈ i.byteRegs ∨ i.dest8 = some (.reg q) → ∀ (c : Cpu) v, R c (c.setHart (c.hart.set8 q v))
  word : ∀ q, q ∈ i.wordRegs ∨ i.dest16 = some (.reg q) → ∀ (c : Cpu) v, R c (c.setHart (c.hart.set16 q v))
  seg : ∀ q, q ∈ i.sregs → ∀ (c : Cpu) v, R c (c.setHart (c.hart.setSreg q v))
  ip : i.transfers = true → ∀ (c : Cpu) v, R c (c.setHart { c.hart with IP := v })
  flags : ∀ (c : Cpu) g, g.Outside i.flagMask c.hart.flags → R c (c.setFlags g)
  energy : i = .nrg → ∀ (c : Cpu) v, R c (c.setHart { c.hart with energy := v })
  bomb0 : i = .int86 → ∀ c : Cpu, c.hart.bomb0 ≠ 0 → R c (c.setHart { c.hart with bomb0 := c.hart.bomb0 - 1 })
  bomb1 : i = .int87 → ∀ c : Cpu, c.hart.bomb1 ≠ 0 → R c (c.setHart { c.hart with bomb1 := c.hart.bomb1 - 1 })
  bomb2 : i = .int88 → ∀ c : Cpu, c.hart.bomb2 ≠ 0 → R c (c.setHart { c.hart with bomb2 := c.hart.bomb2 - 1 })

/-- A relation that allows every write an instruction may make: those, and a byte the hart may write. -/
structure Allows (R : Cpu → Cpu → Prop) (i : Instr) : Prop extends Leaves R i where
  store : ∀ (c : Cpu) (a : Addr) (v : Byte), allowed c.params c.hart.perm (lin c.params a) .write = true → R c (c.store8 a v)

/-! ### The flags each computation may write -/

theorem outside_refl {M : Word} (f : Flags) : f.Outside M f := rfl

theorem outside_of_bits {M : Word} {g f : Flags} (h : ∀ i, i < 16 → M.getLsbD i = false → g.bit i = f.bit i) :
    g.Outside M f := mask_eq_iff.mpr h

theorem outside_arith {n : Nat} (f : Flags) (o : Arith n) : (f.setArith o).Outside 0x08D5 f := by
  apply outside_of_bits
  intro i hi
  interval_cases i <;> first | exact fun _ => rfl | (intro h; exact absurd h (by decide))

theorem outside_incDec {n : Nat} (f : Flags) (o : Arith n) : (f.setIncDec o).Outside 0x08D4 f := by
  apply outside_of_bits
  intro i hi
  interval_cases i <;> first | exact fun _ => rfl | (intro h; exact absurd h (by decide))

theorem outside_logic {n : Nat} (f : Flags) (r : BitVec n) (u : Word) : (f.setLogic r u).Outside 0x08D5 f := by
  apply outside_of_bits
  intro i hi
  interval_cases i <;> first | exact fun _ => rfl | (intro h; exact absurd h (by decide))

theorem outside_mul (f : Flags) (w : Bool) (u : Word) : (f.setMul w u).Outside 0x08D5 f := by
  apply outside_of_bits
  intro i hi
  interval_cases i <;> first | exact fun _ => rfl | (intro h; exact absurd h (by decide))

theorem outside_undefined (f : Flags) (u : Word) : (f.setUndefined u).Outside 0x08D5 f := by
  apply outside_of_bits
  intro i hi
  interval_cases i <;> first | exact fun _ => rfl | (intro h; exact absurd h (by decide))

theorem outside_fromAH (f : Flags) (ah : Byte) : (f.setFromAH ah).Outside 0x00D5 f := by
  apply outside_of_bits
  intro i hi
  interval_cases i <;> first | exact fun _ => rfl | (intro h; exact absurd h (by decide))

theorem outside_interrupt (f : Flags) : ({ f with IF := false, TF := false } : Flags).Outside 0x0300 f := by
  apply outside_of_bits
  intro i hi
  interval_cases i <;> first | exact fun _ => rfl | (intro h; exact absurd h (by decide))

theorem outside_cf (f : Flags) (b : Bool) : ({ f with CF := b } : Flags).Outside 0x0001 f := by
  apply outside_of_bits
  intro i hi
  interval_cases i <;> first | exact fun _ => rfl | (intro h; exact absurd h (by decide))

theorem outside_if (f : Flags) (b : Bool) : ({ f with IF := b } : Flags).Outside 0x0200 f := by
  apply outside_of_bits
  intro i hi
  interval_cases i <;> first | exact fun _ => rfl | (intro h; exact absurd h (by decide))

theorem outside_df (f : Flags) (b : Bool) : ({ f with DF := b } : Flags).Outside 0x0400 f := by
  apply outside_of_bits
  intro i hi
  interval_cases i <;> first | exact fun _ => rfl | (intro h; exact absurd h (by decide))

theorem outside_all (f g : Flags) : g.Outside 0xFFFF f := by
  apply outside_of_bits
  intro i hi
  interval_cases i <;> (intro h; exact absurd h (by decide))

theorem outside_apply {n : Nat} (op : AluOp) (a b : BitVec n) (f : Flags) (u : Word) :
    (op.apply a b f u).2.Outside 0x08D5 f := by
  match op with
  | .add | .adc | .sub | .cmp | .sbb => exact outside_arith _ _
  | .or | .and | .test | .xor => exact outside_logic _ _ _

theorem outside_shift {n : Nat} (op : ShiftOp) (k : Nat) (v r : BitVec n) (cf : Bool) (f : Flags) (u : Word) :
    (f.setShift op k v r cf u).Outside op.mask f := by
  apply outside_of_bits
  intro i hi
  unfold ShiftOp.mask Flags.setShift
  cases op.isRotate <;> interval_cases i <;> first | exact fun _ => rfl | (intro h; exact absurd h (by decide))

/-! ### The pieces -/

namespace Leaves

variable {R : Cpu → Cpu → Prop} {i : Instr} {α β : Type}

theorem ite {p : Prop} [Decidable p] {a b : Exec α} (_ : Leaves R i) (ha : Stays R a) (hb : Stays R b) :
    Stays R (if p then a else b) := by
  split <;> assumption

variable (F : Leaves R i)

include F

theorem pure (a : α) : Stays R (Pure.pure a : Exec α) := fun c => F.refl c

theorem bind {m : Exec α} {k : α → Exec β} (hm : Stays R m) (hk : ∀ a, Stays R (k a)) : Stays R (m >>= k) := by
  intro c
  rw [exec_bind]
  have h := hm c
  cases e : m c with
  | ok a d => rw [e] at h; exact F.trans h (hk a d)
  | error f d => rw [e] at h; exact h

theorem getParams : Stays R getParams := fun c => F.refl c

theorem getHart : Stays R getHart := fun c => F.refl c

theorem raise (f : HartFault) : Stays R (raise f : Exec α) := fun c => F.refl c

theorem freeFlags : Stays R freeFlags := fun c => F.undef c

theorem freeFlagsIf (b : Bool) : Stays R (freeFlagsIf b) := F.ite F.freeFlags (F.pure _)

theorem readByte (ch : Channel) (a : Addr) : Stays R (readByte ch a) := by
  intro c
  unfold Machine.readByte
  split <;> exact F.refl c

theorem read16 (a : Addr) : Stays R (memRead16 a) :=
  F.bind (F.readByte _ _) fun _ => F.bind (F.readByte _ _) fun _ => F.pure _

theorem farPointer (a : Addr) : Stays R (readFarPointer a) :=
  F.bind (F.read16 _) fun _ => F.bind (F.read16 _) fun _ => F.pure _

theorem setWord {q : Reg16} (h : q ∈ i.wordRegs ∨ i.dest16 = some (.reg q)) (g : Hart → Word) :
    Stays R (modHart fun x => x.set16 q (g x)) := fun c => F.word q h c _

theorem setByte {q : Reg8} (h : q ∈ i.byteRegs ∨ i.dest8 = some (.reg q)) (g : Hart → Byte) :
    Stays R (modHart fun x => x.set8 q (g x)) := fun c => F.byte q h c _

theorem setSeg {q : Sreg} (h : q ∈ i.sregs) (g : Hart → Word) : Stays R (modHart fun x => x.setSreg q (g x)) :=
  fun c => F.seg q h c _

theorem setIp (h : i.transfers = true) (g : Hart → Word) : Stays R (modHart fun x => { x with IP := g x }) :=
  fun c => F.ip h c _

theorem setFlags {g : Flags → Flags} (h : ∀ f, (g f).Outside i.flagMask f) : Stays R (modFlags g) :=
  fun c => F.flags c _ (h _)

theorem pop (h : .SP ∈ i.wordRegs) : Stays R pop16 :=
  F.bind F.getHart fun _ => F.bind (F.read16 _) fun _ =>
    F.bind (F.setWord (q := .SP) (.inl h) fun x => x.SP + 2) fun _ => F.pure _

/-! ### Operands -/

theorem byteGet (r : Reg8) : Stays R (byteReg r).get := F.bind F.getHart fun _ => F.pure _

theorem wordGet (r : Reg16) : Stays R (wordReg r).get := F.bind F.getHart fun _ => F.pure _

theorem byteSet {q : Reg8} (h : q ∈ i.byteRegs) (v : Byte) : Stays R ((byteReg q).set v) :=
  F.setByte (.inl h) fun _ => v

theorem wordSet {q : Reg16} (h : q ∈ i.wordRegs) (v : Word) : Stays R ((wordReg q).set v) :=
  F.setWord (.inl h) fun _ => v

theorem immGet {n : Nat} (v : BitVec n) : Stays R (immediate v).get := F.pure _

theorem get8 (g : Hart) (rm : Rm8) : Stays R (g.operand8 rm).get := by
  cases rm with
  | reg r => exact F.byteGet r
  | mem m => exact F.readByte _ _

theorem get16 (g : Hart) (rm : Rm16) : Stays R (g.operand16 rm).get := by
  cases rm with
  | reg r => exact F.wordGet r
  | mem m => exact F.read16 _

theorem rm8 {rm : Rm8} {k : Operand 8 → Exec Unit} (h : ∀ g : Hart, Stays R (k (g.operand8 rm))) :
    Stays R (withRm8 rm k) := F.bind F.getHart fun g => h g

theorem rm16 {rm : Rm16} {k : Operand 16 → Exec Unit} (h : ∀ g : Hart, Stays R (k (g.operand16 rm))) :
    Stays R (withRm16 rm k) := F.bind F.getHart fun g => h g

/-! ### The shared operations -/

theorem alu {n : Nat} {op : AluOp} {d s : Operand n} (hm : i.flagMask = 0x08D5) (hd : Stays R d.get)
    (hs : Stays R s.get) (hw : op.writes = true → ∀ v, Stays R (d.set v)) : Stays R (alu op d s) := by
  refine F.bind hd fun a => F.bind hs fun b => F.bind (F.freeFlagsIf _) fun u => ?_
  intro c
  simp only [exec_bind, getHart_apply, modFlags_apply]
  have hf : R c (c.setFlags (op.apply a b c.hart.flags u).2) := F.flags c _ (by rw [hm]; exact outside_apply _ _ _ _ _)
  split
  · rename_i h
    exact F.trans hf (hw h _ _)
  · exact hf

theorem increment {n : Nat} {d : Operand n} (hm : i.flagMask = 0x08D4) (hd : Stays R d.get)
    (hw : ∀ v, Stays R (d.set v)) : Stays R (increment d) :=
  F.bind hd fun _ => F.bind (F.setFlags fun _ => by rw [hm]; exact outside_incDec _ _) fun _ => hw _

theorem decrement {n : Nat} {d : Operand n} (hm : i.flagMask = 0x08D4) (hd : Stays R d.get)
    (hw : ∀ v, Stays R (d.set v)) : Stays R (decrement d) :=
  F.bind hd fun _ => F.bind (F.setFlags fun _ => by rw [hm]; exact outside_incDec _ _) fun _ => hw _

theorem complement {n : Nat} {d : Operand n} (hd : Stays R d.get) (hw : ∀ v, Stays R (d.set v)) :
    Stays R (complement d) := F.bind hd fun _ => hw _

theorem negate {n : Nat} {d : Operand n} (hm : i.flagMask = 0x08D5) (hd : Stays R d.get)
    (hw : ∀ v, Stays R (d.set v)) : Stays R (negate d) :=
  F.bind hd fun _ => F.bind (F.setFlags fun _ => by rw [hm]; exact outside_arith _ _) fun _ => hw _

theorem shift {n : Nat} {op : ShiftOp} {raw : Byte} {d : Operand n} (hm : i.flagMask = op.mask) (hd : Stays R d.get)
    (hw : ∀ v, Stays R (d.set v)) : Stays R (shift op raw d) := by
  refine F.bind F.getParams fun q => F.bind hd fun v => F.ite (F.pure _) ?_
  refine F.bind F.getHart fun x => F.bind (hw _) fun _ => ?_
  exact F.ite (F.bind F.freeFlags fun u => F.setFlags fun f => by rw [hm]; exact outside_shift _ _ _ _ _ _ _)
    (F.bind (F.pure _) fun u => F.setFlags fun f => by rw [hm]; exact outside_shift _ _ _ _ _ _ _)

theorem shiftCl {n : Nat} {op : ShiftOp} {d : Operand n} (hm : i.flagMask = op.mask) (hd : Stays R d.get)
    (hw : ∀ v, Stays R (d.set v)) : Stays R (shiftCl op d) := F.bind F.getHart fun _ => F.shift hm hd hw

theorem move {n : Nat} {d s : Operand n} (hs : Stays R s.get) (hw : ∀ v, Stays R (d.set v)) : Stays R (move d s) :=
  F.bind hs fun _ => hw _

theorem exchange {n : Nat} {d s : Operand n} (hd : Stays R d.get) (hs : Stays R s.get) (hw : ∀ v, Stays R (d.set v))
    (hx : ∀ v, Stays R (s.set v)) : Stays R (exchange d s) :=
  F.bind hs fun _ => F.bind hd fun _ => F.bind (hx _) fun _ => hw _

theorem loadFarPointer {r : Reg16} {sr : Sreg} {m : MemOp} (hr : r ∈ i.wordRegs) (hs : sr ∈ i.sregs) :
    Stays R (loadFarPointer r sr m) := by
  refine F.bind F.getHart fun _ => F.bind (F.farPointer _) fun p c => ?_
  exact F.trans (F.word r (.inl hr) c p.1) (F.seg sr hs (c.setHart (c.hart.set16 r p.1)) p.2)

theorem popOperand {d : Operand 16} (h : .SP ∈ i.wordRegs) (hw : ∀ v, Stays R (d.set v)) : Stays R (popOperand d) :=
  F.bind (F.pop h) fun _ => hw _

theorem popSreg {r : Sreg} (h : .SP ∈ i.wordRegs) (hs : r ∈ i.sregs) : Stays R (popSreg r) :=
  F.bind (F.pop h) fun v => F.setSeg hs fun _ => v

theorem popAll (h : ∀ q, q ∈ i.wordRegs) : Stays R popAll :=
  have S (q : Reg16) (g : Hart → Word) : Stays R (modHart fun x => x.set16 q (g x)) := F.setWord (.inl (h q)) g
  have P := F.pop (h .SP)
  F.bind P fun v => F.bind (S .DI fun _ => v) fun _ => F.bind P fun v => F.bind (S .SI fun _ => v) fun _ =>
    F.bind P fun v => F.bind (S .BP fun _ => v) fun _ => F.bind (S .SP fun x => x.SP + 2) fun _ =>
    F.bind P fun v => F.bind (S .BX fun _ => v) fun _ => F.bind P fun v => F.bind (S .DX fun _ => v) fun _ =>
    F.bind P fun v => F.bind (S .CX fun _ => v) fun _ => F.bind P fun v => S .AX fun _ => v

theorem leaveFrame (h : .SP ∈ i.wordRegs) (hb : .BP ∈ i.wordRegs) : Stays R leaveFrame :=
  F.bind (F.setWord (q := .SP) (.inl h) fun x => x.BP) fun _ => F.bind (F.pop h) fun v =>
    F.setWord (q := .BP) (.inl hb) fun _ => v

theorem advanceSi {b : Word} (h : .SI ∈ i.wordRegs) : Stays R (advanceSi b) :=
  F.setWord (q := .SI) (.inl h) fun x => x.SI + stringStep b x

theorem advanceDi {b : Word} (h : .DI ∈ i.wordRegs) : Stays R (advanceDi b) :=
  F.setWord (q := .DI) (.inl h) fun x => x.DI + stringStep b x

theorem compared {n : Nat} {o : Arith n} (hm : i.flagMask = 0x08D5) : Stays R (modFlags fun f => f.setArith o) :=
  F.setFlags fun _ => by rw [hm]; exact outside_arith _ _

theorem cmps8 (hm : i.flagMask = 0x08D5) (hs : .SI ∈ i.wordRegs) (hd : .DI ∈ i.wordRegs) :
    Stays R (cmps byteElement) :=
  F.bind F.getHart fun _ => F.bind (F.readByte _ _) fun _ => F.bind (F.readByte _ _) fun _ =>
    F.bind (F.compared hm) fun _ => F.bind (F.advanceSi hs) fun _ => F.advanceDi hd

theorem cmps16 (hm : i.flagMask = 0x08D5) (hs : .SI ∈ i.wordRegs) (hd : .DI ∈ i.wordRegs) :
    Stays R (cmps wordElement) :=
  F.bind F.getHart fun _ => F.bind (F.read16 _) fun _ => F.bind (F.read16 _) fun _ =>
    F.bind (F.compared hm) fun _ => F.bind (F.advanceSi hs) fun _ => F.advanceDi hd

theorem lods8 (ha : .AL ∈ i.byteRegs) (hs : .SI ∈ i.wordRegs) : Stays R (lods byteElement) :=
  F.bind F.getHart fun _ => F.bind (F.readByte _ _) fun v => F.bind (F.setByte (q := .AL) (.inl ha) fun _ => v) fun _ =>
    F.advanceSi hs

theorem lods16 (ha : .AX ∈ i.wordRegs) (hs : .SI ∈ i.wordRegs) : Stays R (lods wordElement) :=
  F.bind F.getHart fun _ => F.bind (F.read16 _) fun v => F.bind (F.setWord (q := .AX) (.inl ha) fun _ => v) fun _ =>
    F.advanceSi hs

theorem scas8 (hm : i.flagMask = 0x08D5) (hd : .DI ∈ i.wordRegs) : Stays R (scas byteElement) :=
  F.bind F.getHart fun _ => F.bind (F.readByte _ _) fun _ => F.bind (F.compared hm) fun _ => F.advanceDi hd

theorem scas16 (hm : i.flagMask = 0x08D5) (hd : .DI ∈ i.wordRegs) : Stays R (scas wordElement) :=
  F.bind F.getHart fun _ => F.bind (F.read16 _) fun _ => F.bind (F.compared hm) fun _ => F.advanceDi hd

theorem repeatLoop {body : Exec Unit} {stop : Flags → Bool} (hc : .CX ∈ i.wordRegs) (hb : Stays R body) :
    ∀ k, Stays R (repeatLoop body stop k)
  | 0 => F.pure _
  | k + 1 =>
    F.bind hb fun _ => F.bind (F.setWord (q := .CX) (.inl hc) fun x => x.CX - 1) fun _ => F.bind F.getHart fun _ =>
      F.ite (F.pure _) (repeatLoop hc hb k)

theorem repeatString {body : Exec Unit} {stop : Flags → Bool} (hc : .CX ∈ i.wordRegs) (hb : Stays R body) :
    Stays R (repeatString body stop) := F.bind F.getHart fun _ => F.repeatLoop hc hb _

theorem mulFlags {w : Bool} (hm : i.flagMask = 0x08D5) : Stays R (mulFlags w) :=
  F.bind F.freeFlags fun _ => F.setFlags fun _ => by rw [hm]; exact outside_mul _ _ _

theorem divFlags (hm : i.flagMask = 0x08D5) : Stays R divFlags :=
  F.bind F.freeFlags fun _ => F.setFlags fun _ => by rw [hm]; exact outside_undefined _ _

theorem setAx {v : Word} (ha : .AX ∈ i.wordRegs) : Stays R (modHart fun x => { x with AX := v }) :=
  F.setWord (q := .AX) (.inl ha) fun _ => v

theorem setAxDx {v w : Word} (ha : .AX ∈ i.wordRegs) (hd : .DX ∈ i.wordRegs) :
    Stays R (modHart fun x => { x with AX := v, DX := w }) := fun c =>
  F.trans (F.word .AX (.inl ha) c v) (F.word .DX (.inl hd) (c.setHart (c.hart.set16 .AX v)) w)

theorem mulByte {d : Operand 8} (hm : i.flagMask = 0x08D5) (hd : Stays R d.get) (ha : .AX ∈ i.wordRegs) :
    Stays R (mulByte d) :=
  F.bind hd fun _ => F.bind F.getHart fun _ => F.bind (F.setAx ha) fun _ => F.mulFlags hm

theorem imulByte {d : Operand 8} (hm : i.flagMask = 0x08D5) (hd : Stays R d.get) (ha : .AX ∈ i.wordRegs) :
    Stays R (imulByte d) :=
  F.bind hd fun _ => F.bind F.getHart fun _ => F.bind (F.setAx ha) fun _ => F.mulFlags hm

theorem mulWord {d : Operand 16} (hm : i.flagMask = 0x08D5) (hd : Stays R d.get) (ha : .AX ∈ i.wordRegs)
    (hx : .DX ∈ i.wordRegs) : Stays R (mulWord d) :=
  F.bind hd fun _ => F.bind F.getHart fun _ => F.bind (F.setAxDx ha hx) fun _ => F.mulFlags hm

theorem imulWord {d : Operand 16} (hm : i.flagMask = 0x08D5) (hd : Stays R d.get) (ha : .AX ∈ i.wordRegs)
    (hx : .DX ∈ i.wordRegs) : Stays R (imulWord d) :=
  F.bind hd fun _ => F.bind F.getHart fun _ => F.bind (F.setAxDx ha hx) fun _ => F.mulFlags hm

theorem imulThree {r : Reg16} {d : Operand 16} {imm : Word} (hm : i.flagMask = 0x08D5) (hd : Stays R d.get)
    (hr : r ∈ i.wordRegs) : Stays R (imulThree r d imm) :=
  F.bind hd fun a => F.bind (F.setWord (.inl hr) fun _ => BitVec.ofInt 16 (a.toInt * imm.toInt)) fun _ => F.mulFlags hm

theorem divided {p : Prop} [Decidable p] {q : Prop} [Decidable q] {m : Exec Unit} (hm : Stays R m) :
    Stays R (if p then Machine.raise .divisionFault else if q then Machine.raise .divisionFault else m) :=
  F.ite (F.raise _) (F.ite (F.raise _) hm)

theorem divByte {d : Operand 8} (hm : i.flagMask = 0x08D5) (hd : Stays R d.get) (ha : .AX ∈ i.wordRegs) :
    Stays R (divByte d) :=
  F.bind hd fun _ => F.bind F.getHart fun _ => F.divided (F.bind (F.setAx ha) fun _ => F.divFlags hm)

theorem idivByte {d : Operand 8} (hm : i.flagMask = 0x08D5) (hd : Stays R d.get) (ha : .AX ∈ i.wordRegs) :
    Stays R (idivByte d) :=
  F.bind hd fun _ => F.bind F.getHart fun _ => F.divided (F.bind (F.setAx ha) fun _ => F.divFlags hm)

theorem divWord {d : Operand 16} (hm : i.flagMask = 0x08D5) (hd : Stays R d.get) (ha : .AX ∈ i.wordRegs)
    (hx : .DX ∈ i.wordRegs) : Stays R (divWord d) :=
  F.bind hd fun _ => F.bind F.getHart fun _ => F.divided (F.bind (F.setAxDx ha hx) fun _ => F.divFlags hm)

theorem idivWord {d : Operand 16} (hm : i.flagMask = 0x08D5) (hd : Stays R d.get) (ha : .AX ∈ i.wordRegs)
    (hx : .DX ∈ i.wordRegs) : Stays R (idivWord d) :=
  F.bind hd fun _ => F.bind F.getHart fun _ => F.divided (F.bind (F.setAxDx ha hx) fun _ => F.divFlags hm)

theorem thirdBomb (h : i = .int88) : Stays R thirdBomb := by
  intro c
  simp only [Machine.thirdBomb, modHart_apply]
  split
  · exact F.refl c
  · rename_i hb
    exact F.bomb2 h c hb

theorem gainEnergy (h : i = .nrg) : Stays R gainEnergy := fun c => F.energy h c _

theorem jumpBy {d : Word} (h : i.transfers = true) : Stays R (jumpBy d) := F.setIp h fun x => x.IP + d

theorem jumpTo {o : Word} (h : i.transfers = true) : Stays R (jumpTo o) := F.setIp h fun _ => o

theorem jumpFar {o s : Word} (h : i.transfers = true) (hs : .CS ∈ i.sregs) : Stays R (jumpFar o s) := fun c =>
  F.trans (F.seg .CS hs c s) (F.ip h (c.setHart (c.hart.setSreg .CS s)) o)

theorem jumpIf {p : Flags → Bool} {rel : Byte} (h : i.transfers = true) : Stays R (jumpIf p rel) :=
  F.bind F.getHart fun _ => F.ite (F.jumpBy h) (F.pure _)

theorem loopWhile {p : Flags → Bool} {rel : Byte} (h : i.transfers = true) (hc : .CX ∈ i.wordRegs) :
    Stays R (loopWhile p rel) :=
  F.bind (F.setWord (q := .CX) (.inl hc) fun x => x.CX - 1) fun _ => F.bind F.getHart fun _ =>
    F.ite (F.jumpBy h) (F.pure _)

theorem jumpIfCxZero {rel : Byte} (h : i.transfers = true) : Stays R (jumpIfCxZero rel) :=
  F.bind F.getHart fun _ => F.ite (F.jumpBy h) (F.pure _)

theorem jumpIndirect {d : Operand 16} (h : i.transfers = true) (hd : Stays R d.get) : Stays R (jumpIndirect d) :=
  F.bind hd fun _ => F.jumpTo h

theorem jumpFarIndirect {m : MemOp} (h : i.transfers = true) (hs : .CS ∈ i.sregs) : Stays R (jumpFarIndirect m) :=
  F.bind F.getHart fun _ => F.bind (F.farPointer _) fun _ => F.jumpFar h hs

theorem nearReturn {n : Word} (h : i.transfers = true) (hp : .SP ∈ i.wordRegs) : Stays R (nearReturn n) :=
  F.bind (F.pop hp) fun ip c =>
    F.trans (F.ip h c ip) (F.word .SP (.inl hp) (c.setHart { c.hart with IP := ip }) (c.hart.SP + n))

theorem farReturn {n : Word} (h : i.transfers = true) (hp : .SP ∈ i.wordRegs) (hs : .CS ∈ i.sregs) :
    Stays R (farReturn n) :=
  F.bind (F.pop hp) fun ip => F.bind (F.setIp h fun _ => ip) fun _ => F.bind (F.pop hp) fun cs c =>
    F.trans (F.seg .CS hs c cs) (F.word .SP (.inl hp) (c.setHart (c.hart.setSreg .CS cs)) (c.hart.SP + n))

theorem interruptReturn (hm : i.flagMask = 0xFFFF) (h : i.transfers = true) (hp : .SP ∈ i.wordRegs)
    (hs : .CS ∈ i.sregs) : Stays R interruptReturn :=
  F.bind (F.pop hp) fun v => F.bind (F.setIp h fun _ => v) fun _ => F.bind (F.pop hp) fun w =>
    F.bind (F.setSeg (q := .CS) hs fun _ => w) fun _ => F.bind (F.pop hp) fun _ =>
    F.setFlags fun _ => by rw [hm]; exact outside_all _ _

theorem popFlags (hm : i.flagMask = 0xFFFF) (hp : .SP ∈ i.wordRegs) : Stays R popFlags :=
  F.bind (F.pop hp) fun _ => F.setFlags fun _ => by rw [hm]; exact outside_all _ _

end Leaves

/-! ### The pieces that store -/

namespace Allows

variable {R : Cpu → Cpu → Prop} {i : Instr} (F : Allows R i)

include F

theorem writeByte (a : Addr) (v : Byte) : Stays R (writeByte a v) := by
  intro c
  unfold Machine.writeByte
  split
  · rename_i h
    exact F.store c a v h
  · exact F.refl c

theorem write16 (a : Addr) (v : Word) : Stays R (memWrite16 a v) :=
  F.bind (F.writeByte _ _) fun _ => F.writeByte _ _

theorem push {v : Word} (h : .SP ∈ i.wordRegs) : Stays R (push16 v) :=
  F.bind (F.setWord (q := .SP) (.inl h) fun x => x.SP - 2) fun _ => F.bind F.getHart fun _ => F.write16 _ _

theorem set8 {rm : Rm8} (h : i.dest8 = some rm) (g : Hart) (v : Byte) : Stays R ((g.operand8 rm).set v) := by
  cases rm with
  | reg r => exact F.setByte (.inr h) fun _ => v
  | mem m => exact F.writeByte _ _

theorem set16 {rm : Rm16} (h : i.dest16 = some rm) (g : Hart) (v : Word) : Stays R ((g.operand16 rm).set v) := by
  cases rm with
  | reg r => exact F.setWord (.inr h) fun _ => v
  | mem m => exact F.write16 _ _

theorem pushOperand {s : Operand 16} (h : .SP ∈ i.wordRegs) (hs : Stays R s.get) : Stays R (pushOperand s) :=
  F.bind hs fun _ => F.push h

theorem pushSreg {r : Sreg} (h : .SP ∈ i.wordRegs) : Stays R (pushSreg r) := F.bind F.getHart fun _ => F.push h

theorem pushAll (h : .SP ∈ i.wordRegs) : Stays R pushAll :=
  F.bind F.getHart fun _ => F.bind (F.push h) fun _ => F.bind (F.push h) fun _ => F.bind (F.push h) fun _ =>
    F.bind (F.push h) fun _ => F.bind (F.push h) fun _ => F.bind (F.push h) fun _ => F.bind (F.push h) fun _ => F.push h

theorem enterCopies (h : .SP ∈ i.wordRegs) (hb : .BP ∈ i.wordRegs) : ∀ k, Stays R (enterCopies k)
  | 0 => F.pure _
  | k + 1 =>
    F.bind (F.setWord (q := .BP) (.inl hb) fun x => x.BP - 2) fun _ => F.bind F.getHart fun _ => F.bind (F.read16 _)
      fun _ => F.bind (F.push h) fun _ => enterCopies h hb k

theorem enterFrame {size : Word} {level : Byte} (h : .SP ∈ i.wordRegs) (hb : .BP ∈ i.wordRegs) :
    Stays R (enterFrame size level) := by
  refine F.bind F.getHart fun _ => F.bind (F.push h) fun _ => F.bind F.getHart fun g => F.bind ?_ fun _ c => ?_
  · unfold enterDisplay
    split
    · exact F.pure _
    · exact F.bind (F.enterCopies h hb _) fun _ => F.push h
  · exact F.trans (F.word .BP (.inl hb) c g.SP)
      (F.word .SP (.inl h) (c.setHart (c.hart.set16 .BP g.SP)) (c.hart.SP - size))

theorem movs8 (hs : .SI ∈ i.wordRegs) (hd : .DI ∈ i.wordRegs) : Stays R (movs byteElement) :=
  F.bind F.getHart fun _ => F.bind (F.readByte _ _) fun _ => F.bind (F.writeByte _ _) fun _ =>
    F.bind (F.advanceSi hs) fun _ => F.advanceDi hd

theorem movs16 (hs : .SI ∈ i.wordRegs) (hd : .DI ∈ i.wordRegs) : Stays R (movs wordElement) :=
  F.bind F.getHart fun _ => F.bind (F.read16 _) fun _ => F.bind (F.write16 _ _) fun _ =>
    F.bind (F.advanceSi hs) fun _ => F.advanceDi hd

theorem stos8 (hd : .DI ∈ i.wordRegs) : Stays R (stos byteElement) :=
  F.bind F.getHart fun _ => F.bind (F.writeByte _ _) fun _ => F.advanceDi hd

theorem stos16 (hd : .DI ∈ i.wordRegs) : Stays R (stos wordElement) :=
  F.bind F.getHart fun _ => F.bind (F.write16 _ _) fun _ => F.advanceDi hd

theorem bombStore {v : Word} (hd : .DI ∈ i.wordRegs) : Stays R (bombStore v) :=
  F.bind F.getHart fun _ => F.bind (F.write16 _ _) fun _ =>
    F.setWord (q := .DI) (.inl hd) fun x => if x.flags.DF then x.DI - 2 else x.DI + 2

theorem bombPairs (hd : .DI ∈ i.wordRegs) : ∀ k, Stays R (bombPairs k)
  | 0 => F.pure _
  | k + 1 =>
    F.bind F.getHart fun _ => F.bind (F.bombStore hd) fun _ => F.bind (F.bombStore hd) fun _ => bombPairs hd k

theorem carpetBomb (h : i = .int86) : Stays R carpetBomb := by
  have hd : .DI ∈ i.wordRegs := by rw [h]; exact .head _
  intro c
  simp only [Machine.carpetBomb, exec_bind, getHart_apply]
  split
  · exact F.refl c
  · rename_i hb
    simp only [exec_bind, modHart_apply]
    exact F.trans (F.bomb0 h c hb) (F.bombPairs hd 64 _)

theorem bombSearch : ∀ k, Stays R (bombSearch k)
  | 0 => F.pure _
  | k + 1 =>
    F.bind F.getHart fun _ => F.bind (F.read16 _) fun _ =>
      F.ite (F.bind (F.read16 _) fun _ => F.ite (F.bind (F.write16 _ _) fun _ => F.write16 _ _) (bombSearch k))
        (bombSearch k)

theorem smartBomb (h : i = .int87) : Stays R smartBomb := by
  intro c
  simp only [Machine.smartBomb, exec_bind, getHart_apply]
  split
  · exact F.refl c
  · rename_i hb
    simp only [exec_bind, modHart_apply]
    exact F.trans (F.bomb1 h c hb) (F.bombSearch 0x10000 _)

theorem callBy {d : Word} (h : i.transfers = true) (hp : .SP ∈ i.wordRegs) : Stays R (callBy d) :=
  F.bind F.getHart fun _ => F.bind (F.push hp) fun _ => F.jumpBy h

theorem callIndirect {d : Operand 16} (h : i.transfers = true) (hp : .SP ∈ i.wordRegs) (hd : Stays R d.get) :
    Stays R (callIndirect d) :=
  F.bind hd fun _ => F.bind F.getHart fun _ => F.bind (F.push hp) fun _ => F.jumpTo h

theorem callFar {o s : Word} (h : i.transfers = true) (hp : .SP ∈ i.wordRegs) (hs : .CS ∈ i.sregs) :
    Stays R (callFar o s) :=
  F.bind F.getHart fun _ => F.bind (F.push hp) fun _ => F.bind (F.push hp) fun _ => F.jumpFar h hs

theorem callFarIndirect {m : MemOp} (h : i.transfers = true) (hp : .SP ∈ i.wordRegs) (hs : .CS ∈ i.sregs) :
    Stays R (callFarIndirect m) :=
  F.bind F.getHart fun _ => F.bind (F.farPointer _) fun _ => F.callFar h hp hs

theorem dispatch {n : Byte} (hm : i.flagMask = 0x0300) (h : i.transfers = true) (hp : .SP ∈ i.wordRegs)
    (hs : .CS ∈ i.sregs) : Stays R (dispatch n) :=
  F.bind F.getHart fun _ => F.bind (F.push hp) fun _ =>
    F.bind (F.setFlags fun _ => by rw [hm]; exact outside_interrupt _) fun _ => F.bind (F.push hp) fun _ =>
    F.bind (F.push hp) fun _ => F.bind (F.read16 _) fun o => F.bind (F.read16 _) fun s => F.jumpFar h hs

theorem interruptOnOverflow (hm : i.flagMask = 0x0300) (h : i.transfers = true) (hp : .SP ∈ i.wordRegs)
    (hs : .CS ∈ i.sregs) : Stays R interruptOnOverflow :=
  F.bind F.getHart fun _ => F.ite (F.dispatch hm h hp hs) (F.pure _)

end Allows

theorem interrupt_eq_dispatch {n : Byte} (h : isVirtualVector n = false) : interrupt n = dispatch n := by
  unfold interrupt
  split
  all_goals first
    | rfl
    | (rename_i hn
       rw [isVirtualVector, hn] at h
       exact absurd h (by decide))

/-! ### Every instruction -/

/-- What an instruction does is some sequence of operations on the hart whose turn it is, which stays inside `R`. -/
def Instr.StaysIn (i : Instr) (R : Cpu → Cpu → Prop) : Prop := ∃ m, (∀ s, exec i s = perform m s) ∧ Stays R m

section

variable {R : Cpu → Cpu → Prop}

theorem stays_addEbGb {rm} {r} (F : Allows R (.addEbGb rm r)) : Instr.StaysIn (.addEbGb rm r) R :=
  ⟨withRm8 rm fun d => alu .add d (byteReg r), fun _ => rfl, F.rm8 fun g => F.alu rfl (F.get8 g rm) (F.byteGet _) (fun _ => F.set8 rfl g)⟩

theorem stays_addEwGw {rm} {r} (F : Allows R (.addEwGw rm r)) : Instr.StaysIn (.addEwGw rm r) R :=
  ⟨withRm16 rm fun d => alu .add d (wordReg r), fun _ => rfl, F.rm16 fun g => F.alu rfl (F.get16 g rm) (F.wordGet _) (fun _ => F.set16 rfl g)⟩

theorem stays_addGbEb {r} {rm} (F : Allows R (.addGbEb r rm)) : Instr.StaysIn (.addGbEb r rm) R :=
  ⟨withRm8 rm fun e => alu .add (byteReg r) e, fun _ => rfl, F.rm8 fun g => F.alu rfl (F.byteGet _) (F.get8 g rm) (fun _ => F.byteSet (.head _))⟩

theorem stays_addGwEw {r} {rm} (F : Allows R (.addGwEw r rm)) : Instr.StaysIn (.addGwEw r rm) R :=
  ⟨withRm16 rm fun e => alu .add (wordReg r) e, fun _ => rfl, F.rm16 fun g => F.alu rfl (F.wordGet _) (F.get16 g rm) (fun _ => F.wordSet (.head _))⟩

theorem stays_addAlImm8 {imm} (F : Allows R (.addAlImm8 imm)) : Instr.StaysIn (.addAlImm8 imm) R :=
  ⟨alu .add (byteReg .AL) (immediate imm), fun _ => rfl, F.alu rfl (F.byteGet _) (F.immGet _) (fun _ => F.byteSet (.head _))⟩

theorem stays_addAxImm16 {imm} (F : Allows R (.addAxImm16 imm)) : Instr.StaysIn (.addAxImm16 imm) R :=
  ⟨alu .add (wordReg .AX) (immediate imm), fun _ => rfl, F.alu rfl (F.wordGet _) (F.immGet _) (fun _ => F.wordSet (.head _))⟩

theorem stays_orEbGb {rm} {r} (F : Allows R (.orEbGb rm r)) : Instr.StaysIn (.orEbGb rm r) R :=
  ⟨withRm8 rm fun d => alu .or d (byteReg r), fun _ => rfl, F.rm8 fun g => F.alu rfl (F.get8 g rm) (F.byteGet _) (fun _ => F.set8 rfl g)⟩

theorem stays_orEwGw {rm} {r} (F : Allows R (.orEwGw rm r)) : Instr.StaysIn (.orEwGw rm r) R :=
  ⟨withRm16 rm fun d => alu .or d (wordReg r), fun _ => rfl, F.rm16 fun g => F.alu rfl (F.get16 g rm) (F.wordGet _) (fun _ => F.set16 rfl g)⟩

theorem stays_orGbEb {r} {rm} (F : Allows R (.orGbEb r rm)) : Instr.StaysIn (.orGbEb r rm) R :=
  ⟨withRm8 rm fun e => alu .or (byteReg r) e, fun _ => rfl, F.rm8 fun g => F.alu rfl (F.byteGet _) (F.get8 g rm) (fun _ => F.byteSet (.head _))⟩

theorem stays_orGwEw {r} {rm} (F : Allows R (.orGwEw r rm)) : Instr.StaysIn (.orGwEw r rm) R :=
  ⟨withRm16 rm fun e => alu .or (wordReg r) e, fun _ => rfl, F.rm16 fun g => F.alu rfl (F.wordGet _) (F.get16 g rm) (fun _ => F.wordSet (.head _))⟩

theorem stays_orAlImm8 {imm} (F : Allows R (.orAlImm8 imm)) : Instr.StaysIn (.orAlImm8 imm) R :=
  ⟨alu .or (byteReg .AL) (immediate imm), fun _ => rfl, F.alu rfl (F.byteGet _) (F.immGet _) (fun _ => F.byteSet (.head _))⟩

theorem stays_orAxImm16 {imm} (F : Allows R (.orAxImm16 imm)) : Instr.StaysIn (.orAxImm16 imm) R :=
  ⟨alu .or (wordReg .AX) (immediate imm), fun _ => rfl, F.alu rfl (F.wordGet _) (F.immGet _) (fun _ => F.wordSet (.head _))⟩

theorem stays_adcEbGb {rm} {r} (F : Allows R (.adcEbGb rm r)) : Instr.StaysIn (.adcEbGb rm r) R :=
  ⟨withRm8 rm fun d => alu .adc d (byteReg r), fun _ => rfl, F.rm8 fun g => F.alu rfl (F.get8 g rm) (F.byteGet _) (fun _ => F.set8 rfl g)⟩

theorem stays_adcEwGw {rm} {r} (F : Allows R (.adcEwGw rm r)) : Instr.StaysIn (.adcEwGw rm r) R :=
  ⟨withRm16 rm fun d => alu .adc d (wordReg r), fun _ => rfl, F.rm16 fun g => F.alu rfl (F.get16 g rm) (F.wordGet _) (fun _ => F.set16 rfl g)⟩

theorem stays_adcGbEb {r} {rm} (F : Allows R (.adcGbEb r rm)) : Instr.StaysIn (.adcGbEb r rm) R :=
  ⟨withRm8 rm fun e => alu .adc (byteReg r) e, fun _ => rfl, F.rm8 fun g => F.alu rfl (F.byteGet _) (F.get8 g rm) (fun _ => F.byteSet (.head _))⟩

theorem stays_adcGwEw {r} {rm} (F : Allows R (.adcGwEw r rm)) : Instr.StaysIn (.adcGwEw r rm) R :=
  ⟨withRm16 rm fun e => alu .adc (wordReg r) e, fun _ => rfl, F.rm16 fun g => F.alu rfl (F.wordGet _) (F.get16 g rm) (fun _ => F.wordSet (.head _))⟩

theorem stays_adcAlImm8 {imm} (F : Allows R (.adcAlImm8 imm)) : Instr.StaysIn (.adcAlImm8 imm) R :=
  ⟨alu .adc (byteReg .AL) (immediate imm), fun _ => rfl, F.alu rfl (F.byteGet _) (F.immGet _) (fun _ => F.byteSet (.head _))⟩

theorem stays_adcAxImm16 {imm} (F : Allows R (.adcAxImm16 imm)) : Instr.StaysIn (.adcAxImm16 imm) R :=
  ⟨alu .adc (wordReg .AX) (immediate imm), fun _ => rfl, F.alu rfl (F.wordGet _) (F.immGet _) (fun _ => F.wordSet (.head _))⟩

theorem stays_sbbEbGb {rm} {r} (F : Allows R (.sbbEbGb rm r)) : Instr.StaysIn (.sbbEbGb rm r) R :=
  ⟨withRm8 rm fun d => alu .sbb d (byteReg r), fun _ => rfl, F.rm8 fun g => F.alu rfl (F.get8 g rm) (F.byteGet _) (fun _ => F.set8 rfl g)⟩

theorem stays_sbbEwGw {rm} {r} (F : Allows R (.sbbEwGw rm r)) : Instr.StaysIn (.sbbEwGw rm r) R :=
  ⟨withRm16 rm fun d => alu .sbb d (wordReg r), fun _ => rfl, F.rm16 fun g => F.alu rfl (F.get16 g rm) (F.wordGet _) (fun _ => F.set16 rfl g)⟩

theorem stays_sbbGbEb {r} {rm} (F : Allows R (.sbbGbEb r rm)) : Instr.StaysIn (.sbbGbEb r rm) R :=
  ⟨withRm8 rm fun e => alu .sbb (byteReg r) e, fun _ => rfl, F.rm8 fun g => F.alu rfl (F.byteGet _) (F.get8 g rm) (fun _ => F.byteSet (.head _))⟩

theorem stays_sbbGwEw {r} {rm} (F : Allows R (.sbbGwEw r rm)) : Instr.StaysIn (.sbbGwEw r rm) R :=
  ⟨withRm16 rm fun e => alu .sbb (wordReg r) e, fun _ => rfl, F.rm16 fun g => F.alu rfl (F.wordGet _) (F.get16 g rm) (fun _ => F.wordSet (.head _))⟩

theorem stays_sbbAlImm8 {imm} (F : Allows R (.sbbAlImm8 imm)) : Instr.StaysIn (.sbbAlImm8 imm) R :=
  ⟨alu .sbb (byteReg .AL) (immediate imm), fun _ => rfl, F.alu rfl (F.byteGet _) (F.immGet _) (fun _ => F.byteSet (.head _))⟩

theorem stays_sbbAxImm16 {imm} (F : Allows R (.sbbAxImm16 imm)) : Instr.StaysIn (.sbbAxImm16 imm) R :=
  ⟨alu .sbb (wordReg .AX) (immediate imm), fun _ => rfl, F.alu rfl (F.wordGet _) (F.immGet _) (fun _ => F.wordSet (.head _))⟩

theorem stays_andEbGb {rm} {r} (F : Allows R (.andEbGb rm r)) : Instr.StaysIn (.andEbGb rm r) R :=
  ⟨withRm8 rm fun d => alu .and d (byteReg r), fun _ => rfl, F.rm8 fun g => F.alu rfl (F.get8 g rm) (F.byteGet _) (fun _ => F.set8 rfl g)⟩

theorem stays_andEwGw {rm} {r} (F : Allows R (.andEwGw rm r)) : Instr.StaysIn (.andEwGw rm r) R :=
  ⟨withRm16 rm fun d => alu .and d (wordReg r), fun _ => rfl, F.rm16 fun g => F.alu rfl (F.get16 g rm) (F.wordGet _) (fun _ => F.set16 rfl g)⟩

theorem stays_andGbEb {r} {rm} (F : Allows R (.andGbEb r rm)) : Instr.StaysIn (.andGbEb r rm) R :=
  ⟨withRm8 rm fun e => alu .and (byteReg r) e, fun _ => rfl, F.rm8 fun g => F.alu rfl (F.byteGet _) (F.get8 g rm) (fun _ => F.byteSet (.head _))⟩

theorem stays_andGwEw {r} {rm} (F : Allows R (.andGwEw r rm)) : Instr.StaysIn (.andGwEw r rm) R :=
  ⟨withRm16 rm fun e => alu .and (wordReg r) e, fun _ => rfl, F.rm16 fun g => F.alu rfl (F.wordGet _) (F.get16 g rm) (fun _ => F.wordSet (.head _))⟩

theorem stays_andAlImm8 {imm} (F : Allows R (.andAlImm8 imm)) : Instr.StaysIn (.andAlImm8 imm) R :=
  ⟨alu .and (byteReg .AL) (immediate imm), fun _ => rfl, F.alu rfl (F.byteGet _) (F.immGet _) (fun _ => F.byteSet (.head _))⟩

theorem stays_andAxImm16 {imm} (F : Allows R (.andAxImm16 imm)) : Instr.StaysIn (.andAxImm16 imm) R :=
  ⟨alu .and (wordReg .AX) (immediate imm), fun _ => rfl, F.alu rfl (F.wordGet _) (F.immGet _) (fun _ => F.wordSet (.head _))⟩

theorem stays_subEbGb {rm} {r} (F : Allows R (.subEbGb rm r)) : Instr.StaysIn (.subEbGb rm r) R :=
  ⟨withRm8 rm fun d => alu .sub d (byteReg r), fun _ => rfl, F.rm8 fun g => F.alu rfl (F.get8 g rm) (F.byteGet _) (fun _ => F.set8 rfl g)⟩

theorem stays_subEwGw {rm} {r} (F : Allows R (.subEwGw rm r)) : Instr.StaysIn (.subEwGw rm r) R :=
  ⟨withRm16 rm fun d => alu .sub d (wordReg r), fun _ => rfl, F.rm16 fun g => F.alu rfl (F.get16 g rm) (F.wordGet _) (fun _ => F.set16 rfl g)⟩

theorem stays_subGbEb {r} {rm} (F : Allows R (.subGbEb r rm)) : Instr.StaysIn (.subGbEb r rm) R :=
  ⟨withRm8 rm fun e => alu .sub (byteReg r) e, fun _ => rfl, F.rm8 fun g => F.alu rfl (F.byteGet _) (F.get8 g rm) (fun _ => F.byteSet (.head _))⟩

theorem stays_subGwEw {r} {rm} (F : Allows R (.subGwEw r rm)) : Instr.StaysIn (.subGwEw r rm) R :=
  ⟨withRm16 rm fun e => alu .sub (wordReg r) e, fun _ => rfl, F.rm16 fun g => F.alu rfl (F.wordGet _) (F.get16 g rm) (fun _ => F.wordSet (.head _))⟩

theorem stays_subAlImm8 {imm} (F : Allows R (.subAlImm8 imm)) : Instr.StaysIn (.subAlImm8 imm) R :=
  ⟨alu .sub (byteReg .AL) (immediate imm), fun _ => rfl, F.alu rfl (F.byteGet _) (F.immGet _) (fun _ => F.byteSet (.head _))⟩

theorem stays_subAxImm16 {imm} (F : Allows R (.subAxImm16 imm)) : Instr.StaysIn (.subAxImm16 imm) R :=
  ⟨alu .sub (wordReg .AX) (immediate imm), fun _ => rfl, F.alu rfl (F.wordGet _) (F.immGet _) (fun _ => F.wordSet (.head _))⟩

theorem stays_xorEbGb {rm} {r} (F : Allows R (.xorEbGb rm r)) : Instr.StaysIn (.xorEbGb rm r) R :=
  ⟨withRm8 rm fun d => alu .xor d (byteReg r), fun _ => rfl, F.rm8 fun g => F.alu rfl (F.get8 g rm) (F.byteGet _) (fun _ => F.set8 rfl g)⟩

theorem stays_xorEwGw {rm} {r} (F : Allows R (.xorEwGw rm r)) : Instr.StaysIn (.xorEwGw rm r) R :=
  ⟨withRm16 rm fun d => alu .xor d (wordReg r), fun _ => rfl, F.rm16 fun g => F.alu rfl (F.get16 g rm) (F.wordGet _) (fun _ => F.set16 rfl g)⟩

theorem stays_xorGbEb {r} {rm} (F : Allows R (.xorGbEb r rm)) : Instr.StaysIn (.xorGbEb r rm) R :=
  ⟨withRm8 rm fun e => alu .xor (byteReg r) e, fun _ => rfl, F.rm8 fun g => F.alu rfl (F.byteGet _) (F.get8 g rm) (fun _ => F.byteSet (.head _))⟩

theorem stays_xorGwEw {r} {rm} (F : Allows R (.xorGwEw r rm)) : Instr.StaysIn (.xorGwEw r rm) R :=
  ⟨withRm16 rm fun e => alu .xor (wordReg r) e, fun _ => rfl, F.rm16 fun g => F.alu rfl (F.wordGet _) (F.get16 g rm) (fun _ => F.wordSet (.head _))⟩

theorem stays_xorAlImm8 {imm} (F : Allows R (.xorAlImm8 imm)) : Instr.StaysIn (.xorAlImm8 imm) R :=
  ⟨alu .xor (byteReg .AL) (immediate imm), fun _ => rfl, F.alu rfl (F.byteGet _) (F.immGet _) (fun _ => F.byteSet (.head _))⟩

theorem stays_xorAxImm16 {imm} (F : Allows R (.xorAxImm16 imm)) : Instr.StaysIn (.xorAxImm16 imm) R :=
  ⟨alu .xor (wordReg .AX) (immediate imm), fun _ => rfl, F.alu rfl (F.wordGet _) (F.immGet _) (fun _ => F.wordSet (.head _))⟩

theorem stays_cmpEbGb {rm} {r} (F : Allows R (.cmpEbGb rm r)) : Instr.StaysIn (.cmpEbGb rm r) R :=
  ⟨withRm8 rm fun d => alu .cmp d (byteReg r), fun _ => rfl, F.rm8 fun g => F.alu (op := .cmp) rfl (F.get8 g rm) (F.byteGet _) (fun h => absurd h (by decide))⟩

theorem stays_cmpEwGw {rm} {r} (F : Allows R (.cmpEwGw rm r)) : Instr.StaysIn (.cmpEwGw rm r) R :=
  ⟨withRm16 rm fun d => alu .cmp d (wordReg r), fun _ => rfl, F.rm16 fun g => F.alu (op := .cmp) rfl (F.get16 g rm) (F.wordGet _) (fun h => absurd h (by decide))⟩

theorem stays_cmpGbEb {r} {rm} (F : Allows R (.cmpGbEb r rm)) : Instr.StaysIn (.cmpGbEb r rm) R :=
  ⟨withRm8 rm fun e => alu .cmp (byteReg r) e, fun _ => rfl, F.rm8 fun g => F.alu (op := .cmp) rfl (F.byteGet _) (F.get8 g rm) (fun h => absurd h (by decide))⟩

theorem stays_cmpGwEw {r} {rm} (F : Allows R (.cmpGwEw r rm)) : Instr.StaysIn (.cmpGwEw r rm) R :=
  ⟨withRm16 rm fun e => alu .cmp (wordReg r) e, fun _ => rfl, F.rm16 fun g => F.alu (op := .cmp) rfl (F.wordGet _) (F.get16 g rm) (fun h => absurd h (by decide))⟩

theorem stays_cmpAlImm8 {imm} (F : Allows R (.cmpAlImm8 imm)) : Instr.StaysIn (.cmpAlImm8 imm) R :=
  ⟨alu .cmp (byteReg .AL) (immediate imm), fun _ => rfl, F.alu (op := .cmp) rfl (F.byteGet _) (F.immGet _) (fun h => absurd h (by decide))⟩

theorem stays_cmpAxImm16 {imm} (F : Allows R (.cmpAxImm16 imm)) : Instr.StaysIn (.cmpAxImm16 imm) R :=
  ⟨alu .cmp (wordReg .AX) (immediate imm), fun _ => rfl, F.alu (op := .cmp) rfl (F.wordGet _) (F.immGet _) (fun h => absurd h (by decide))⟩

theorem stays_incReg16 {r} (F : Allows R (.incReg16 r)) : Instr.StaysIn (.incReg16 r) R :=
  ⟨increment (wordReg r), fun _ => rfl, F.increment rfl (F.wordGet _) (F.wordSet (.head _))⟩

theorem stays_decReg16 {r} (F : Allows R (.decReg16 r)) : Instr.StaysIn (.decReg16 r) R :=
  ⟨decrement (wordReg r), fun _ => rfl, F.decrement rfl (F.wordGet _) (F.wordSet (.head _))⟩

theorem stays_pushReg16 {r} (F : Allows R (.pushReg16 r)) : Instr.StaysIn (.pushReg16 r) R :=
  ⟨pushOperand (wordReg r), fun _ => rfl, F.pushOperand (.head _) (F.wordGet _)⟩

theorem stays_popReg16 {r} (F : Allows R (.popReg16 r)) : Instr.StaysIn (.popReg16 r) R :=
  ⟨popOperand (wordReg r), fun _ => rfl, F.popOperand (.head _) (F.wordSet (.tail _ (.head _)))⟩

theorem stays_pushImm16 {imm} (F : Allows R (.pushImm16 imm)) : Instr.StaysIn (.pushImm16 imm) R :=
  ⟨pushOperand (immediate imm), fun _ => rfl, F.pushOperand (.head _) (F.immGet _)⟩

theorem stays_imulGwEwImm16 {r} {rm} {imm} (F : Allows R (.imulGwEwImm16 r rm imm)) : Instr.StaysIn (.imulGwEwImm16 r rm imm) R :=
  ⟨withRm16 rm fun e => imulThree r e imm, fun _ => rfl, F.rm16 fun g => F.imulThree rfl (F.get16 g rm) (.head _)⟩

theorem stays_pushSimm8 {imm} (F : Allows R (.pushSimm8 imm)) : Instr.StaysIn (.pushSimm8 imm) R :=
  ⟨pushOperand (immediate (sext8 imm)), fun _ => rfl, F.pushOperand (.head _) (F.immGet _)⟩

theorem stays_imulGwEwSimm8 {r} {rm} {imm} (F : Allows R (.imulGwEwSimm8 r rm imm)) : Instr.StaysIn (.imulGwEwSimm8 r rm imm) R :=
  ⟨withRm16 rm fun e => imulThree r e (sext8 imm), fun _ => rfl, F.rm16 fun g => F.imulThree rfl (F.get16 g rm) (.head _)⟩

theorem stays_joRel8 {rel} (F : Allows R (.joRel8 rel)) : Instr.StaysIn (.joRel8 rel) R :=
  ⟨jumpIf (fun f => f.OF) rel, fun _ => rfl, F.jumpIf rfl⟩

theorem stays_jnoRel8 {rel} (F : Allows R (.jnoRel8 rel)) : Instr.StaysIn (.jnoRel8 rel) R :=
  ⟨jumpIf (fun f => !f.OF) rel, fun _ => rfl, F.jumpIf rfl⟩

theorem stays_jbRel8 {rel} (F : Allows R (.jbRel8 rel)) : Instr.StaysIn (.jbRel8 rel) R :=
  ⟨jumpIf (fun f => f.CF) rel, fun _ => rfl, F.jumpIf rfl⟩

theorem stays_jnbRel8 {rel} (F : Allows R (.jnbRel8 rel)) : Instr.StaysIn (.jnbRel8 rel) R :=
  ⟨jumpIf (fun f => !f.CF) rel, fun _ => rfl, F.jumpIf rfl⟩

theorem stays_jzRel8 {rel} (F : Allows R (.jzRel8 rel)) : Instr.StaysIn (.jzRel8 rel) R :=
  ⟨jumpIf (fun f => f.ZF) rel, fun _ => rfl, F.jumpIf rfl⟩

theorem stays_jnzRel8 {rel} (F : Allows R (.jnzRel8 rel)) : Instr.StaysIn (.jnzRel8 rel) R :=
  ⟨jumpIf (fun f => !f.ZF) rel, fun _ => rfl, F.jumpIf rfl⟩

theorem stays_jbeRel8 {rel} (F : Allows R (.jbeRel8 rel)) : Instr.StaysIn (.jbeRel8 rel) R :=
  ⟨jumpIf (fun f => f.CF || f.ZF) rel, fun _ => rfl, F.jumpIf rfl⟩

theorem stays_jaRel8 {rel} (F : Allows R (.jaRel8 rel)) : Instr.StaysIn (.jaRel8 rel) R :=
  ⟨jumpIf (fun f => !f.CF && !f.ZF) rel, fun _ => rfl, F.jumpIf rfl⟩

theorem stays_jsRel8 {rel} (F : Allows R (.jsRel8 rel)) : Instr.StaysIn (.jsRel8 rel) R :=
  ⟨jumpIf (fun f => f.SF) rel, fun _ => rfl, F.jumpIf rfl⟩

theorem stays_jnsRel8 {rel} (F : Allows R (.jnsRel8 rel)) : Instr.StaysIn (.jnsRel8 rel) R :=
  ⟨jumpIf (fun f => !f.SF) rel, fun _ => rfl, F.jumpIf rfl⟩

theorem stays_jpRel8 {rel} (F : Allows R (.jpRel8 rel)) : Instr.StaysIn (.jpRel8 rel) R :=
  ⟨jumpIf (fun f => f.PF) rel, fun _ => rfl, F.jumpIf rfl⟩

theorem stays_jnpRel8 {rel} (F : Allows R (.jnpRel8 rel)) : Instr.StaysIn (.jnpRel8 rel) R :=
  ⟨jumpIf (fun f => !f.PF) rel, fun _ => rfl, F.jumpIf rfl⟩

theorem stays_jlRel8 {rel} (F : Allows R (.jlRel8 rel)) : Instr.StaysIn (.jlRel8 rel) R :=
  ⟨jumpIf (fun f => f.SF != f.OF) rel, fun _ => rfl, F.jumpIf rfl⟩

theorem stays_jgeRel8 {rel} (F : Allows R (.jgeRel8 rel)) : Instr.StaysIn (.jgeRel8 rel) R :=
  ⟨jumpIf (fun f => f.SF == f.OF) rel, fun _ => rfl, F.jumpIf rfl⟩

theorem stays_jleRel8 {rel} (F : Allows R (.jleRel8 rel)) : Instr.StaysIn (.jleRel8 rel) R :=
  ⟨jumpIf (fun f => f.ZF || f.SF != f.OF) rel, fun _ => rfl, F.jumpIf rfl⟩

theorem stays_jgRel8 {rel} (F : Allows R (.jgRel8 rel)) : Instr.StaysIn (.jgRel8 rel) R :=
  ⟨jumpIf (fun f => !f.ZF && f.SF == f.OF) rel, fun _ => rfl, F.jumpIf rfl⟩

theorem stays_addEbImm8 {rm} {imm} (F : Allows R (.addEbImm8 rm imm)) : Instr.StaysIn (.addEbImm8 rm imm) R :=
  ⟨withRm8 rm fun d => alu .add d (immediate imm), fun _ => rfl, F.rm8 fun g => F.alu rfl (F.get8 g rm) (F.immGet _) (fun _ => F.set8 rfl g)⟩

theorem stays_orEbImm8 {rm} {imm} (F : Allows R (.orEbImm8 rm imm)) : Instr.StaysIn (.orEbImm8 rm imm) R :=
  ⟨withRm8 rm fun d => alu .or d (immediate imm), fun _ => rfl, F.rm8 fun g => F.alu rfl (F.get8 g rm) (F.immGet _) (fun _ => F.set8 rfl g)⟩

theorem stays_adcEbImm8 {rm} {imm} (F : Allows R (.adcEbImm8 rm imm)) : Instr.StaysIn (.adcEbImm8 rm imm) R :=
  ⟨withRm8 rm fun d => alu .adc d (immediate imm), fun _ => rfl, F.rm8 fun g => F.alu rfl (F.get8 g rm) (F.immGet _) (fun _ => F.set8 rfl g)⟩

theorem stays_sbbEbImm8 {rm} {imm} (F : Allows R (.sbbEbImm8 rm imm)) : Instr.StaysIn (.sbbEbImm8 rm imm) R :=
  ⟨withRm8 rm fun d => alu .sbb d (immediate imm), fun _ => rfl, F.rm8 fun g => F.alu rfl (F.get8 g rm) (F.immGet _) (fun _ => F.set8 rfl g)⟩

theorem stays_andEbImm8 {rm} {imm} (F : Allows R (.andEbImm8 rm imm)) : Instr.StaysIn (.andEbImm8 rm imm) R :=
  ⟨withRm8 rm fun d => alu .and d (immediate imm), fun _ => rfl, F.rm8 fun g => F.alu rfl (F.get8 g rm) (F.immGet _) (fun _ => F.set8 rfl g)⟩

theorem stays_subEbImm8 {rm} {imm} (F : Allows R (.subEbImm8 rm imm)) : Instr.StaysIn (.subEbImm8 rm imm) R :=
  ⟨withRm8 rm fun d => alu .sub d (immediate imm), fun _ => rfl, F.rm8 fun g => F.alu rfl (F.get8 g rm) (F.immGet _) (fun _ => F.set8 rfl g)⟩

theorem stays_xorEbImm8 {rm} {imm} (F : Allows R (.xorEbImm8 rm imm)) : Instr.StaysIn (.xorEbImm8 rm imm) R :=
  ⟨withRm8 rm fun d => alu .xor d (immediate imm), fun _ => rfl, F.rm8 fun g => F.alu rfl (F.get8 g rm) (F.immGet _) (fun _ => F.set8 rfl g)⟩

theorem stays_cmpEbImm8 {rm} {imm} (F : Allows R (.cmpEbImm8 rm imm)) : Instr.StaysIn (.cmpEbImm8 rm imm) R :=
  ⟨withRm8 rm fun d => alu .cmp d (immediate imm), fun _ => rfl, F.rm8 fun g => F.alu (op := .cmp) rfl (F.get8 g rm) (F.immGet _) (fun h => absurd h (by decide))⟩

theorem stays_addEwImm16 {rm} {imm} (F : Allows R (.addEwImm16 rm imm)) : Instr.StaysIn (.addEwImm16 rm imm) R :=
  ⟨withRm16 rm fun d => alu .add d (immediate imm), fun _ => rfl, F.rm16 fun g => F.alu rfl (F.get16 g rm) (F.immGet _) (fun _ => F.set16 rfl g)⟩

theorem stays_orEwImm16 {rm} {imm} (F : Allows R (.orEwImm16 rm imm)) : Instr.StaysIn (.orEwImm16 rm imm) R :=
  ⟨withRm16 rm fun d => alu .or d (immediate imm), fun _ => rfl, F.rm16 fun g => F.alu rfl (F.get16 g rm) (F.immGet _) (fun _ => F.set16 rfl g)⟩

theorem stays_adcEwImm16 {rm} {imm} (F : Allows R (.adcEwImm16 rm imm)) : Instr.StaysIn (.adcEwImm16 rm imm) R :=
  ⟨withRm16 rm fun d => alu .adc d (immediate imm), fun _ => rfl, F.rm16 fun g => F.alu rfl (F.get16 g rm) (F.immGet _) (fun _ => F.set16 rfl g)⟩

theorem stays_sbbEwImm16 {rm} {imm} (F : Allows R (.sbbEwImm16 rm imm)) : Instr.StaysIn (.sbbEwImm16 rm imm) R :=
  ⟨withRm16 rm fun d => alu .sbb d (immediate imm), fun _ => rfl, F.rm16 fun g => F.alu rfl (F.get16 g rm) (F.immGet _) (fun _ => F.set16 rfl g)⟩

theorem stays_andEwImm16 {rm} {imm} (F : Allows R (.andEwImm16 rm imm)) : Instr.StaysIn (.andEwImm16 rm imm) R :=
  ⟨withRm16 rm fun d => alu .and d (immediate imm), fun _ => rfl, F.rm16 fun g => F.alu rfl (F.get16 g rm) (F.immGet _) (fun _ => F.set16 rfl g)⟩

theorem stays_subEwImm16 {rm} {imm} (F : Allows R (.subEwImm16 rm imm)) : Instr.StaysIn (.subEwImm16 rm imm) R :=
  ⟨withRm16 rm fun d => alu .sub d (immediate imm), fun _ => rfl, F.rm16 fun g => F.alu rfl (F.get16 g rm) (F.immGet _) (fun _ => F.set16 rfl g)⟩

theorem stays_xorEwImm16 {rm} {imm} (F : Allows R (.xorEwImm16 rm imm)) : Instr.StaysIn (.xorEwImm16 rm imm) R :=
  ⟨withRm16 rm fun d => alu .xor d (immediate imm), fun _ => rfl, F.rm16 fun g => F.alu rfl (F.get16 g rm) (F.immGet _) (fun _ => F.set16 rfl g)⟩

theorem stays_cmpEwImm16 {rm} {imm} (F : Allows R (.cmpEwImm16 rm imm)) : Instr.StaysIn (.cmpEwImm16 rm imm) R :=
  ⟨withRm16 rm fun d => alu .cmp d (immediate imm), fun _ => rfl, F.rm16 fun g => F.alu (op := .cmp) rfl (F.get16 g rm) (F.immGet _) (fun h => absurd h (by decide))⟩

theorem stays_addEwSimm8 {rm} {imm} (F : Allows R (.addEwSimm8 rm imm)) : Instr.StaysIn (.addEwSimm8 rm imm) R :=
  ⟨withRm16 rm fun d => alu .add d (immediate (sext8 imm)), fun _ => rfl, F.rm16 fun g => F.alu rfl (F.get16 g rm) (F.immGet _) (fun _ => F.set16 rfl g)⟩

theorem stays_orEwSimm8 {rm} {imm} (F : Allows R (.orEwSimm8 rm imm)) : Instr.StaysIn (.orEwSimm8 rm imm) R :=
  ⟨withRm16 rm fun d => alu .or d (immediate (sext8 imm)), fun _ => rfl, F.rm16 fun g => F.alu rfl (F.get16 g rm) (F.immGet _) (fun _ => F.set16 rfl g)⟩

theorem stays_adcEwSimm8 {rm} {imm} (F : Allows R (.adcEwSimm8 rm imm)) : Instr.StaysIn (.adcEwSimm8 rm imm) R :=
  ⟨withRm16 rm fun d => alu .adc d (immediate (sext8 imm)), fun _ => rfl, F.rm16 fun g => F.alu rfl (F.get16 g rm) (F.immGet _) (fun _ => F.set16 rfl g)⟩

theorem stays_sbbEwSimm8 {rm} {imm} (F : Allows R (.sbbEwSimm8 rm imm)) : Instr.StaysIn (.sbbEwSimm8 rm imm) R :=
  ⟨withRm16 rm fun d => alu .sbb d (immediate (sext8 imm)), fun _ => rfl, F.rm16 fun g => F.alu rfl (F.get16 g rm) (F.immGet _) (fun _ => F.set16 rfl g)⟩

theorem stays_andEwSimm8 {rm} {imm} (F : Allows R (.andEwSimm8 rm imm)) : Instr.StaysIn (.andEwSimm8 rm imm) R :=
  ⟨withRm16 rm fun d => alu .and d (immediate (sext8 imm)), fun _ => rfl, F.rm16 fun g => F.alu rfl (F.get16 g rm) (F.immGet _) (fun _ => F.set16 rfl g)⟩

theorem stays_subEwSimm8 {rm} {imm} (F : Allows R (.subEwSimm8 rm imm)) : Instr.StaysIn (.subEwSimm8 rm imm) R :=
  ⟨withRm16 rm fun d => alu .sub d (immediate (sext8 imm)), fun _ => rfl, F.rm16 fun g => F.alu rfl (F.get16 g rm) (F.immGet _) (fun _ => F.set16 rfl g)⟩

theorem stays_xorEwSimm8 {rm} {imm} (F : Allows R (.xorEwSimm8 rm imm)) : Instr.StaysIn (.xorEwSimm8 rm imm) R :=
  ⟨withRm16 rm fun d => alu .xor d (immediate (sext8 imm)), fun _ => rfl, F.rm16 fun g => F.alu rfl (F.get16 g rm) (F.immGet _) (fun _ => F.set16 rfl g)⟩

theorem stays_cmpEwSimm8 {rm} {imm} (F : Allows R (.cmpEwSimm8 rm imm)) : Instr.StaysIn (.cmpEwSimm8 rm imm) R :=
  ⟨withRm16 rm fun d => alu .cmp d (immediate (sext8 imm)), fun _ => rfl, F.rm16 fun g => F.alu (op := .cmp) rfl (F.get16 g rm) (F.immGet _) (fun h => absurd h (by decide))⟩

theorem stays_testEbGb {rm} {r} (F : Allows R (.testEbGb rm r)) : Instr.StaysIn (.testEbGb rm r) R :=
  ⟨withRm8 rm fun d => alu .test d (byteReg r), fun _ => rfl, F.rm8 fun g => F.alu (op := .test) rfl (F.get8 g rm) (F.byteGet _) (fun h => absurd h (by decide))⟩

theorem stays_testEwGw {rm} {r} (F : Allows R (.testEwGw rm r)) : Instr.StaysIn (.testEwGw rm r) R :=
  ⟨withRm16 rm fun d => alu .test d (wordReg r), fun _ => rfl, F.rm16 fun g => F.alu (op := .test) rfl (F.get16 g rm) (F.wordGet _) (fun h => absurd h (by decide))⟩

theorem stays_xchgGbEb {r} {rm} (F : Allows R (.xchgGbEb r rm)) : Instr.StaysIn (.xchgGbEb r rm) R :=
  ⟨withRm8 rm fun e => exchange (byteReg r) e, fun _ => rfl, F.rm8 fun g => F.exchange (F.byteGet _) (F.get8 g rm) (F.byteSet (.head _)) (F.set8 rfl g)⟩

theorem stays_xchgGwEw {r} {rm} (F : Allows R (.xchgGwEw r rm)) : Instr.StaysIn (.xchgGwEw r rm) R :=
  ⟨withRm16 rm fun e => exchange (wordReg r) e, fun _ => rfl, F.rm16 fun g => F.exchange (F.wordGet _) (F.get16 g rm) (F.wordSet (.head _)) (F.set16 rfl g)⟩

theorem stays_movEbGb {rm} {r} (F : Allows R (.movEbGb rm r)) : Instr.StaysIn (.movEbGb rm r) R :=
  ⟨withRm8 rm fun d => move d (byteReg r), fun _ => rfl, F.rm8 fun g => F.move (F.byteGet _) (F.set8 rfl g)⟩

theorem stays_movEwGw {rm} {r} (F : Allows R (.movEwGw rm r)) : Instr.StaysIn (.movEwGw rm r) R :=
  ⟨withRm16 rm fun d => move d (wordReg r), fun _ => rfl, F.rm16 fun g => F.move (F.wordGet _) (F.set16 rfl g)⟩

theorem stays_movGbEb {r} {rm} (F : Allows R (.movGbEb r rm)) : Instr.StaysIn (.movGbEb r rm) R :=
  ⟨withRm8 rm fun e => move (byteReg r) e, fun _ => rfl, F.rm8 fun g => F.move (F.get8 g rm) (F.byteSet (.head _))⟩

theorem stays_movGwEw {r} {rm} (F : Allows R (.movGwEw r rm)) : Instr.StaysIn (.movGwEw r rm) R :=
  ⟨withRm16 rm fun e => move (wordReg r) e, fun _ => rfl, F.rm16 fun g => F.move (F.get16 g rm) (F.wordSet (.head _))⟩

theorem stays_movEwSw {rm} {sr} (F : Allows R (.movEwSw rm sr)) : Instr.StaysIn (.movEwSw rm sr) R :=
  ⟨withRm16 rm fun d => storeSreg d sr, fun _ => rfl, F.rm16 fun g => F.bind F.getHart fun _ => F.set16 rfl g _⟩

theorem stays_leaGwM {r} {m} (F : Allows R (.leaGwM r m)) : Instr.StaysIn (.leaGwM r m) R :=
  ⟨modHart fun h => h.set16 r (h.ea m).off, fun _ => rfl, F.setWord (.inl (.head _)) _⟩

theorem stays_leaRegister {_rrr} {_iii} (F : Allows R (.leaRegister _rrr _iii)) : Instr.StaysIn (.leaRegister _rrr _iii) R :=
  ⟨raise .invalidOpcode, fun _ => rfl, F.raise _⟩

theorem stays_movSwEw {sr} {rm} (F : Allows R (.movSwEw sr rm)) : Instr.StaysIn (.movSwEw sr rm) R :=
  ⟨withRm16 rm fun e => loadSreg sr e, fun _ => rfl, F.rm16 fun g => F.bind (F.get16 g rm) fun v => F.setSeg (.head _) fun _ => v⟩

theorem stays_popEw {rm} (F : Allows R (.popEw rm)) : Instr.StaysIn (.popEw rm) R :=
  ⟨withRm16 rm popOperand, fun _ => rfl, F.rm16 fun g => F.popOperand (.head _) (F.set16 rfl g)⟩

theorem stays_invalid8Fs1 {_mm} {_iii} (F : Allows R (.invalid8Fs1 _mm _iii)) : Instr.StaysIn (.invalid8Fs1 _mm _iii) R :=
  ⟨raise .invalidOpcode, fun _ => rfl, F.raise _⟩

theorem stays_invalid8Fs2 {_mm} {_iii} (F : Allows R (.invalid8Fs2 _mm _iii)) : Instr.StaysIn (.invalid8Fs2 _mm _iii) R :=
  ⟨raise .invalidOpcode, fun _ => rfl, F.raise _⟩

theorem stays_invalid8Fs3 {_mm} {_iii} (F : Allows R (.invalid8Fs3 _mm _iii)) : Instr.StaysIn (.invalid8Fs3 _mm _iii) R :=
  ⟨raise .invalidOpcode, fun _ => rfl, F.raise _⟩

theorem stays_invalid8Fs4 {_mm} {_iii} (F : Allows R (.invalid8Fs4 _mm _iii)) : Instr.StaysIn (.invalid8Fs4 _mm _iii) R :=
  ⟨raise .invalidOpcode, fun _ => rfl, F.raise _⟩

theorem stays_invalid8Fs5 {_mm} {_iii} (F : Allows R (.invalid8Fs5 _mm _iii)) : Instr.StaysIn (.invalid8Fs5 _mm _iii) R :=
  ⟨raise .invalidOpcode, fun _ => rfl, F.raise _⟩

theorem stays_invalid8Fs6 {_mm} {_iii} (F : Allows R (.invalid8Fs6 _mm _iii)) : Instr.StaysIn (.invalid8Fs6 _mm _iii) R :=
  ⟨raise .invalidOpcode, fun _ => rfl, F.raise _⟩

theorem stays_invalid8Fs7 {_mm} {_iii} (F : Allows R (.invalid8Fs7 _mm _iii)) : Instr.StaysIn (.invalid8Fs7 _mm _iii) R :=
  ⟨raise .invalidOpcode, fun _ => rfl, F.raise _⟩

theorem stays_xchgAxReg16 {r} (F : Allows R (.xchgAxReg16 r)) : Instr.StaysIn (.xchgAxReg16 r) R :=
  ⟨exchange (wordReg r) (wordReg .AX), fun _ => rfl, F.exchange (F.wordGet _) (F.wordGet _) (F.wordSet (.tail _ (.head _))) (F.wordSet (.head _))⟩

theorem stays_callPtr1616 {off} {seg} (F : Allows R (.callPtr1616 off seg)) : Instr.StaysIn (.callPtr1616 off seg) R :=
  ⟨callFar off seg, fun _ => rfl, F.callFar rfl (.head _) (.head _)⟩

theorem stays_nrgBroken {_good} {_b} (F : Allows R (.nrgBroken _good _b)) : Instr.StaysIn (.nrgBroken _good _b) R :=
  ⟨raise .invalidOpcode, fun _ => rfl, F.raise _⟩

theorem stays_movAlMoffs16 {moffs} (F : Allows R (.movAlMoffs16 moffs)) : Instr.StaysIn (.movAlMoffs16 moffs) R :=
  ⟨atMoffs16 moffs fun a => move (byteReg .AL) (byteAt a), fun _ => rfl, F.bind F.getHart fun _ => F.move (F.readByte _ _) (F.byteSet (.head _))⟩

theorem stays_movAxMoffs16 {moffs} (F : Allows R (.movAxMoffs16 moffs)) : Instr.StaysIn (.movAxMoffs16 moffs) R :=
  ⟨atMoffs16 moffs fun a => move (wordReg .AX) (wordAt a), fun _ => rfl, F.bind F.getHart fun _ => F.move (F.read16 _) (F.wordSet (.head _))⟩

theorem stays_movMoffs16Al {moffs} (F : Allows R (.movMoffs16Al moffs)) : Instr.StaysIn (.movMoffs16Al moffs) R :=
  ⟨atMoffs16 moffs fun a => move (byteAt a) (byteReg .AL), fun _ => rfl, F.bind F.getHart fun _ => F.move (F.byteGet _) (F.writeByte _)⟩

theorem stays_movMoffs16Ax {moffs} (F : Allows R (.movMoffs16Ax moffs)) : Instr.StaysIn (.movMoffs16Ax moffs) R :=
  ⟨atMoffs16 moffs fun a => move (wordAt a) (wordReg .AX), fun _ => rfl, F.bind F.getHart fun _ => F.move (F.wordGet _) (F.write16 _)⟩

theorem stays_testAlImm8 {imm} (F : Allows R (.testAlImm8 imm)) : Instr.StaysIn (.testAlImm8 imm) R :=
  ⟨alu .test (byteReg .AL) (immediate imm), fun _ => rfl, F.alu (op := .test) rfl (F.byteGet _) (F.immGet _) (fun h => absurd h (by decide))⟩

theorem stays_testAxImm16 {imm} (F : Allows R (.testAxImm16 imm)) : Instr.StaysIn (.testAxImm16 imm) R :=
  ⟨alu .test (wordReg .AX) (immediate imm), fun _ => rfl, F.alu (op := .test) rfl (F.wordGet _) (F.immGet _) (fun h => absurd h (by decide))⟩

theorem stays_movReg8Imm8 {r} {imm} (F : Allows R (.movReg8Imm8 r imm)) : Instr.StaysIn (.movReg8Imm8 r imm) R :=
  ⟨move (byteReg r) (immediate imm), fun _ => rfl, F.move (F.immGet _) (F.byteSet (.head _))⟩

theorem stays_movReg16Imm16 {r} {imm} (F : Allows R (.movReg16Imm16 r imm)) : Instr.StaysIn (.movReg16Imm16 r imm) R :=
  ⟨move (wordReg r) (immediate imm), fun _ => rfl, F.move (F.immGet _) (F.wordSet (.head _))⟩

theorem stays_rolEbImm8 {rm} {imm} (F : Allows R (.rolEbImm8 rm imm)) : Instr.StaysIn (.rolEbImm8 rm imm) R :=
  ⟨withRm8 rm (shift .rol imm), fun _ => rfl, F.rm8 fun g => F.shift rfl (F.get8 g rm) (F.set8 rfl g)⟩

theorem stays_rorEbImm8 {rm} {imm} (F : Allows R (.rorEbImm8 rm imm)) : Instr.StaysIn (.rorEbImm8 rm imm) R :=
  ⟨withRm8 rm (shift .ror imm), fun _ => rfl, F.rm8 fun g => F.shift rfl (F.get8 g rm) (F.set8 rfl g)⟩

theorem stays_rclEbImm8 {rm} {imm} (F : Allows R (.rclEbImm8 rm imm)) : Instr.StaysIn (.rclEbImm8 rm imm) R :=
  ⟨withRm8 rm (shift .rcl imm), fun _ => rfl, F.rm8 fun g => F.shift rfl (F.get8 g rm) (F.set8 rfl g)⟩

theorem stays_rcrEbImm8 {rm} {imm} (F : Allows R (.rcrEbImm8 rm imm)) : Instr.StaysIn (.rcrEbImm8 rm imm) R :=
  ⟨withRm8 rm (shift .rcr imm), fun _ => rfl, F.rm8 fun g => F.shift rfl (F.get8 g rm) (F.set8 rfl g)⟩

theorem stays_shlEbImm8 {rm} {imm} (F : Allows R (.shlEbImm8 rm imm)) : Instr.StaysIn (.shlEbImm8 rm imm) R :=
  ⟨withRm8 rm (shift .shl imm), fun _ => rfl, F.rm8 fun g => F.shift rfl (F.get8 g rm) (F.set8 rfl g)⟩

theorem stays_shrEbImm8 {rm} {imm} (F : Allows R (.shrEbImm8 rm imm)) : Instr.StaysIn (.shrEbImm8 rm imm) R :=
  ⟨withRm8 rm (shift .shr imm), fun _ => rfl, F.rm8 fun g => F.shift rfl (F.get8 g rm) (F.set8 rfl g)⟩

theorem stays_invalidC0s6 {_mm} {_iii} (F : Allows R (.invalidC0s6 _mm _iii)) : Instr.StaysIn (.invalidC0s6 _mm _iii) R :=
  ⟨raise .invalidOpcode, fun _ => rfl, F.raise _⟩

theorem stays_sarEbImm8 {rm} {imm} (F : Allows R (.sarEbImm8 rm imm)) : Instr.StaysIn (.sarEbImm8 rm imm) R :=
  ⟨withRm8 rm (shift .sar imm), fun _ => rfl, F.rm8 fun g => F.shift rfl (F.get8 g rm) (F.set8 rfl g)⟩

theorem stays_rolEwImm8 {rm} {imm} (F : Allows R (.rolEwImm8 rm imm)) : Instr.StaysIn (.rolEwImm8 rm imm) R :=
  ⟨withRm16 rm (shift .rol imm), fun _ => rfl, F.rm16 fun g => F.shift rfl (F.get16 g rm) (F.set16 rfl g)⟩

theorem stays_rorEwImm8 {rm} {imm} (F : Allows R (.rorEwImm8 rm imm)) : Instr.StaysIn (.rorEwImm8 rm imm) R :=
  ⟨withRm16 rm (shift .ror imm), fun _ => rfl, F.rm16 fun g => F.shift rfl (F.get16 g rm) (F.set16 rfl g)⟩

theorem stays_rclEwImm8 {rm} {imm} (F : Allows R (.rclEwImm8 rm imm)) : Instr.StaysIn (.rclEwImm8 rm imm) R :=
  ⟨withRm16 rm (shift .rcl imm), fun _ => rfl, F.rm16 fun g => F.shift rfl (F.get16 g rm) (F.set16 rfl g)⟩

theorem stays_rcrEwImm8 {rm} {imm} (F : Allows R (.rcrEwImm8 rm imm)) : Instr.StaysIn (.rcrEwImm8 rm imm) R :=
  ⟨withRm16 rm (shift .rcr imm), fun _ => rfl, F.rm16 fun g => F.shift rfl (F.get16 g rm) (F.set16 rfl g)⟩

theorem stays_shlEwImm8 {rm} {imm} (F : Allows R (.shlEwImm8 rm imm)) : Instr.StaysIn (.shlEwImm8 rm imm) R :=
  ⟨withRm16 rm (shift .shl imm), fun _ => rfl, F.rm16 fun g => F.shift rfl (F.get16 g rm) (F.set16 rfl g)⟩

theorem stays_shrEwImm8 {rm} {imm} (F : Allows R (.shrEwImm8 rm imm)) : Instr.StaysIn (.shrEwImm8 rm imm) R :=
  ⟨withRm16 rm (shift .shr imm), fun _ => rfl, F.rm16 fun g => F.shift rfl (F.get16 g rm) (F.set16 rfl g)⟩

theorem stays_invalidC1s6 {_mm} {_iii} (F : Allows R (.invalidC1s6 _mm _iii)) : Instr.StaysIn (.invalidC1s6 _mm _iii) R :=
  ⟨raise .invalidOpcode, fun _ => rfl, F.raise _⟩

theorem stays_sarEwImm8 {rm} {imm} (F : Allows R (.sarEwImm8 rm imm)) : Instr.StaysIn (.sarEwImm8 rm imm) R :=
  ⟨withRm16 rm (shift .sar imm), fun _ => rfl, F.rm16 fun g => F.shift rfl (F.get16 g rm) (F.set16 rfl g)⟩

theorem stays_rolEb1 {rm} (F : Allows R (.rolEb1 rm)) : Instr.StaysIn (.rolEb1 rm) R :=
  ⟨withRm8 rm (shift .rol 1), fun _ => rfl, F.rm8 fun g => F.shift rfl (F.get8 g rm) (F.set8 rfl g)⟩

theorem stays_rorEb1 {rm} (F : Allows R (.rorEb1 rm)) : Instr.StaysIn (.rorEb1 rm) R :=
  ⟨withRm8 rm (shift .ror 1), fun _ => rfl, F.rm8 fun g => F.shift rfl (F.get8 g rm) (F.set8 rfl g)⟩

theorem stays_rclEb1 {rm} (F : Allows R (.rclEb1 rm)) : Instr.StaysIn (.rclEb1 rm) R :=
  ⟨withRm8 rm (shift .rcl 1), fun _ => rfl, F.rm8 fun g => F.shift rfl (F.get8 g rm) (F.set8 rfl g)⟩

theorem stays_rcrEb1 {rm} (F : Allows R (.rcrEb1 rm)) : Instr.StaysIn (.rcrEb1 rm) R :=
  ⟨withRm8 rm (shift .rcr 1), fun _ => rfl, F.rm8 fun g => F.shift rfl (F.get8 g rm) (F.set8 rfl g)⟩

theorem stays_shlEb1 {rm} (F : Allows R (.shlEb1 rm)) : Instr.StaysIn (.shlEb1 rm) R :=
  ⟨withRm8 rm (shift .shl 1), fun _ => rfl, F.rm8 fun g => F.shift rfl (F.get8 g rm) (F.set8 rfl g)⟩

theorem stays_shrEb1 {rm} (F : Allows R (.shrEb1 rm)) : Instr.StaysIn (.shrEb1 rm) R :=
  ⟨withRm8 rm (shift .shr 1), fun _ => rfl, F.rm8 fun g => F.shift rfl (F.get8 g rm) (F.set8 rfl g)⟩

theorem stays_invalidD0s6 {_mm} {_iii} (F : Allows R (.invalidD0s6 _mm _iii)) : Instr.StaysIn (.invalidD0s6 _mm _iii) R :=
  ⟨raise .invalidOpcode, fun _ => rfl, F.raise _⟩

theorem stays_sarEb1 {rm} (F : Allows R (.sarEb1 rm)) : Instr.StaysIn (.sarEb1 rm) R :=
  ⟨withRm8 rm (shift .sar 1), fun _ => rfl, F.rm8 fun g => F.shift rfl (F.get8 g rm) (F.set8 rfl g)⟩

theorem stays_rolEw1 {rm} (F : Allows R (.rolEw1 rm)) : Instr.StaysIn (.rolEw1 rm) R :=
  ⟨withRm16 rm (shift .rol 1), fun _ => rfl, F.rm16 fun g => F.shift rfl (F.get16 g rm) (F.set16 rfl g)⟩

theorem stays_rorEw1 {rm} (F : Allows R (.rorEw1 rm)) : Instr.StaysIn (.rorEw1 rm) R :=
  ⟨withRm16 rm (shift .ror 1), fun _ => rfl, F.rm16 fun g => F.shift rfl (F.get16 g rm) (F.set16 rfl g)⟩

theorem stays_rclEw1 {rm} (F : Allows R (.rclEw1 rm)) : Instr.StaysIn (.rclEw1 rm) R :=
  ⟨withRm16 rm (shift .rcl 1), fun _ => rfl, F.rm16 fun g => F.shift rfl (F.get16 g rm) (F.set16 rfl g)⟩

theorem stays_rcrEw1 {rm} (F : Allows R (.rcrEw1 rm)) : Instr.StaysIn (.rcrEw1 rm) R :=
  ⟨withRm16 rm (shift .rcr 1), fun _ => rfl, F.rm16 fun g => F.shift rfl (F.get16 g rm) (F.set16 rfl g)⟩

theorem stays_shlEw1 {rm} (F : Allows R (.shlEw1 rm)) : Instr.StaysIn (.shlEw1 rm) R :=
  ⟨withRm16 rm (shift .shl 1), fun _ => rfl, F.rm16 fun g => F.shift rfl (F.get16 g rm) (F.set16 rfl g)⟩

theorem stays_shrEw1 {rm} (F : Allows R (.shrEw1 rm)) : Instr.StaysIn (.shrEw1 rm) R :=
  ⟨withRm16 rm (shift .shr 1), fun _ => rfl, F.rm16 fun g => F.shift rfl (F.get16 g rm) (F.set16 rfl g)⟩

theorem stays_invalidD1s6 {_mm} {_iii} (F : Allows R (.invalidD1s6 _mm _iii)) : Instr.StaysIn (.invalidD1s6 _mm _iii) R :=
  ⟨raise .invalidOpcode, fun _ => rfl, F.raise _⟩

theorem stays_sarEw1 {rm} (F : Allows R (.sarEw1 rm)) : Instr.StaysIn (.sarEw1 rm) R :=
  ⟨withRm16 rm (shift .sar 1), fun _ => rfl, F.rm16 fun g => F.shift rfl (F.get16 g rm) (F.set16 rfl g)⟩

theorem stays_rolEbCl {rm} (F : Allows R (.rolEbCl rm)) : Instr.StaysIn (.rolEbCl rm) R :=
  ⟨withRm8 rm (shiftCl .rol), fun _ => rfl, F.rm8 fun g => F.shiftCl rfl (F.get8 g rm) (F.set8 rfl g)⟩

theorem stays_rorEbCl {rm} (F : Allows R (.rorEbCl rm)) : Instr.StaysIn (.rorEbCl rm) R :=
  ⟨withRm8 rm (shiftCl .ror), fun _ => rfl, F.rm8 fun g => F.shiftCl rfl (F.get8 g rm) (F.set8 rfl g)⟩

theorem stays_rclEbCl {rm} (F : Allows R (.rclEbCl rm)) : Instr.StaysIn (.rclEbCl rm) R :=
  ⟨withRm8 rm (shiftCl .rcl), fun _ => rfl, F.rm8 fun g => F.shiftCl rfl (F.get8 g rm) (F.set8 rfl g)⟩

theorem stays_rcrEbCl {rm} (F : Allows R (.rcrEbCl rm)) : Instr.StaysIn (.rcrEbCl rm) R :=
  ⟨withRm8 rm (shiftCl .rcr), fun _ => rfl, F.rm8 fun g => F.shiftCl rfl (F.get8 g rm) (F.set8 rfl g)⟩

theorem stays_shlEbCl {rm} (F : Allows R (.shlEbCl rm)) : Instr.StaysIn (.shlEbCl rm) R :=
  ⟨withRm8 rm (shiftCl .shl), fun _ => rfl, F.rm8 fun g => F.shiftCl rfl (F.get8 g rm) (F.set8 rfl g)⟩

theorem stays_shrEbCl {rm} (F : Allows R (.shrEbCl rm)) : Instr.StaysIn (.shrEbCl rm) R :=
  ⟨withRm8 rm (shiftCl .shr), fun _ => rfl, F.rm8 fun g => F.shiftCl rfl (F.get8 g rm) (F.set8 rfl g)⟩

theorem stays_invalidD2s6 {_mm} {_iii} (F : Allows R (.invalidD2s6 _mm _iii)) : Instr.StaysIn (.invalidD2s6 _mm _iii) R :=
  ⟨raise .invalidOpcode, fun _ => rfl, F.raise _⟩

theorem stays_sarEbCl {rm} (F : Allows R (.sarEbCl rm)) : Instr.StaysIn (.sarEbCl rm) R :=
  ⟨withRm8 rm (shiftCl .sar), fun _ => rfl, F.rm8 fun g => F.shiftCl rfl (F.get8 g rm) (F.set8 rfl g)⟩

theorem stays_rolEwCl {rm} (F : Allows R (.rolEwCl rm)) : Instr.StaysIn (.rolEwCl rm) R :=
  ⟨withRm16 rm (shiftCl .rol), fun _ => rfl, F.rm16 fun g => F.shiftCl rfl (F.get16 g rm) (F.set16 rfl g)⟩

theorem stays_rorEwCl {rm} (F : Allows R (.rorEwCl rm)) : Instr.StaysIn (.rorEwCl rm) R :=
  ⟨withRm16 rm (shiftCl .ror), fun _ => rfl, F.rm16 fun g => F.shiftCl rfl (F.get16 g rm) (F.set16 rfl g)⟩

theorem stays_rclEwCl {rm} (F : Allows R (.rclEwCl rm)) : Instr.StaysIn (.rclEwCl rm) R :=
  ⟨withRm16 rm (shiftCl .rcl), fun _ => rfl, F.rm16 fun g => F.shiftCl rfl (F.get16 g rm) (F.set16 rfl g)⟩

theorem stays_rcrEwCl {rm} (F : Allows R (.rcrEwCl rm)) : Instr.StaysIn (.rcrEwCl rm) R :=
  ⟨withRm16 rm (shiftCl .rcr), fun _ => rfl, F.rm16 fun g => F.shiftCl rfl (F.get16 g rm) (F.set16 rfl g)⟩

theorem stays_shlEwCl {rm} (F : Allows R (.shlEwCl rm)) : Instr.StaysIn (.shlEwCl rm) R :=
  ⟨withRm16 rm (shiftCl .shl), fun _ => rfl, F.rm16 fun g => F.shiftCl rfl (F.get16 g rm) (F.set16 rfl g)⟩

theorem stays_shrEwCl {rm} (F : Allows R (.shrEwCl rm)) : Instr.StaysIn (.shrEwCl rm) R :=
  ⟨withRm16 rm (shiftCl .shr), fun _ => rfl, F.rm16 fun g => F.shiftCl rfl (F.get16 g rm) (F.set16 rfl g)⟩

theorem stays_invalidD3s6 {_mm} {_iii} (F : Allows R (.invalidD3s6 _mm _iii)) : Instr.StaysIn (.invalidD3s6 _mm _iii) R :=
  ⟨raise .invalidOpcode, fun _ => rfl, F.raise _⟩

theorem stays_sarEwCl {rm} (F : Allows R (.sarEwCl rm)) : Instr.StaysIn (.sarEwCl rm) R :=
  ⟨withRm16 rm (shiftCl .sar), fun _ => rfl, F.rm16 fun g => F.shiftCl rfl (F.get16 g rm) (F.set16 rfl g)⟩

theorem stays_retImm16 {imm} (F : Allows R (.retImm16 imm)) : Instr.StaysIn (.retImm16 imm) R :=
  ⟨nearReturn imm, fun _ => rfl, F.nearReturn rfl (.head _)⟩

theorem stays_lesGwM {r} {m} (F : Allows R (.lesGwM r m)) : Instr.StaysIn (.lesGwM r m) R :=
  ⟨loadFarPointer r .ES m, fun _ => rfl, F.loadFarPointer (.head _) (.head _)⟩

theorem stays_lesRegister {_rrr} {_iii} (F : Allows R (.lesRegister _rrr _iii)) : Instr.StaysIn (.lesRegister _rrr _iii) R :=
  ⟨raise .invalidOpcode, fun _ => rfl, F.raise _⟩

theorem stays_ldsGwM {r} {m} (F : Allows R (.ldsGwM r m)) : Instr.StaysIn (.ldsGwM r m) R :=
  ⟨loadFarPointer r .DS m, fun _ => rfl, F.loadFarPointer (.head _) (.head _)⟩

theorem stays_ldsRegister {_rrr} {_iii} (F : Allows R (.ldsRegister _rrr _iii)) : Instr.StaysIn (.ldsRegister _rrr _iii) R :=
  ⟨raise .invalidOpcode, fun _ => rfl, F.raise _⟩

theorem stays_movEbImm8 {rm} {imm} (F : Allows R (.movEbImm8 rm imm)) : Instr.StaysIn (.movEbImm8 rm imm) R :=
  ⟨withRm8 rm fun d => move d (immediate imm), fun _ => rfl, F.rm8 fun g => F.move (F.immGet _) (F.set8 rfl g)⟩

theorem stays_movEwImm16 {rm} {imm} (F : Allows R (.movEwImm16 rm imm)) : Instr.StaysIn (.movEwImm16 rm imm) R :=
  ⟨withRm16 rm fun d => move d (immediate imm), fun _ => rfl, F.rm16 fun g => F.move (F.immGet _) (F.set16 rfl g)⟩

theorem stays_invalidC6s1 {_mm} {_iii} (F : Allows R (.invalidC6s1 _mm _iii)) : Instr.StaysIn (.invalidC6s1 _mm _iii) R :=
  ⟨raise .invalidOpcode, fun _ => rfl, F.raise _⟩

theorem stays_invalidC6s2 {_mm} {_iii} (F : Allows R (.invalidC6s2 _mm _iii)) : Instr.StaysIn (.invalidC6s2 _mm _iii) R :=
  ⟨raise .invalidOpcode, fun _ => rfl, F.raise _⟩

theorem stays_invalidC6s3 {_mm} {_iii} (F : Allows R (.invalidC6s3 _mm _iii)) : Instr.StaysIn (.invalidC6s3 _mm _iii) R :=
  ⟨raise .invalidOpcode, fun _ => rfl, F.raise _⟩

theorem stays_invalidC6s4 {_mm} {_iii} (F : Allows R (.invalidC6s4 _mm _iii)) : Instr.StaysIn (.invalidC6s4 _mm _iii) R :=
  ⟨raise .invalidOpcode, fun _ => rfl, F.raise _⟩

theorem stays_invalidC6s5 {_mm} {_iii} (F : Allows R (.invalidC6s5 _mm _iii)) : Instr.StaysIn (.invalidC6s5 _mm _iii) R :=
  ⟨raise .invalidOpcode, fun _ => rfl, F.raise _⟩

theorem stays_invalidC6s6 {_mm} {_iii} (F : Allows R (.invalidC6s6 _mm _iii)) : Instr.StaysIn (.invalidC6s6 _mm _iii) R :=
  ⟨raise .invalidOpcode, fun _ => rfl, F.raise _⟩

theorem stays_invalidC6s7 {_mm} {_iii} (F : Allows R (.invalidC6s7 _mm _iii)) : Instr.StaysIn (.invalidC6s7 _mm _iii) R :=
  ⟨raise .invalidOpcode, fun _ => rfl, F.raise _⟩

theorem stays_invalidC7s1 {_mm} {_iii} (F : Allows R (.invalidC7s1 _mm _iii)) : Instr.StaysIn (.invalidC7s1 _mm _iii) R :=
  ⟨raise .invalidOpcode, fun _ => rfl, F.raise _⟩

theorem stays_invalidC7s2 {_mm} {_iii} (F : Allows R (.invalidC7s2 _mm _iii)) : Instr.StaysIn (.invalidC7s2 _mm _iii) R :=
  ⟨raise .invalidOpcode, fun _ => rfl, F.raise _⟩

theorem stays_invalidC7s3 {_mm} {_iii} (F : Allows R (.invalidC7s3 _mm _iii)) : Instr.StaysIn (.invalidC7s3 _mm _iii) R :=
  ⟨raise .invalidOpcode, fun _ => rfl, F.raise _⟩

theorem stays_invalidC7s4 {_mm} {_iii} (F : Allows R (.invalidC7s4 _mm _iii)) : Instr.StaysIn (.invalidC7s4 _mm _iii) R :=
  ⟨raise .invalidOpcode, fun _ => rfl, F.raise _⟩

theorem stays_invalidC7s5 {_mm} {_iii} (F : Allows R (.invalidC7s5 _mm _iii)) : Instr.StaysIn (.invalidC7s5 _mm _iii) R :=
  ⟨raise .invalidOpcode, fun _ => rfl, F.raise _⟩

theorem stays_invalidC7s6 {_mm} {_iii} (F : Allows R (.invalidC7s6 _mm _iii)) : Instr.StaysIn (.invalidC7s6 _mm _iii) R :=
  ⟨raise .invalidOpcode, fun _ => rfl, F.raise _⟩

theorem stays_invalidC7s7 {_mm} {_iii} (F : Allows R (.invalidC7s7 _mm _iii)) : Instr.StaysIn (.invalidC7s7 _mm _iii) R :=
  ⟨raise .invalidOpcode, fun _ => rfl, F.raise _⟩

theorem stays_enterImm16Imm8 {size} {level} (F : Allows R (.enterImm16Imm8 size level)) : Instr.StaysIn (.enterImm16Imm8 size level) R :=
  ⟨enterFrame size level, fun _ => rfl, F.enterFrame (.head _) (.tail _ (.head _))⟩

theorem stays_retfImm16 {imm} (F : Allows R (.retfImm16 imm)) : Instr.StaysIn (.retfImm16 imm) R :=
  ⟨farReturn imm, fun _ => rfl, F.farReturn rfl (.head _) (.head _)⟩

theorem stays_esc {_n} (F : Allows R (.esc _n)) : Instr.StaysIn (.esc _n) R :=
  ⟨raise .unimplementedOpcode, fun _ => rfl, F.raise _⟩

theorem stays_loopnzRel8 {rel} (F : Allows R (.loopnzRel8 rel)) : Instr.StaysIn (.loopnzRel8 rel) R :=
  ⟨loopWhile (fun f => !f.ZF) rel, fun _ => rfl, F.loopWhile rfl (.head _)⟩

theorem stays_loopzRel8 {rel} (F : Allows R (.loopzRel8 rel)) : Instr.StaysIn (.loopzRel8 rel) R :=
  ⟨loopWhile (fun f => f.ZF) rel, fun _ => rfl, F.loopWhile rfl (.head _)⟩

theorem stays_loopRel8 {rel} (F : Allows R (.loopRel8 rel)) : Instr.StaysIn (.loopRel8 rel) R :=
  ⟨loopWhile (fun _ => true) rel, fun _ => rfl, F.loopWhile rfl (.head _)⟩

theorem stays_jcxzRel8 {rel} (F : Allows R (.jcxzRel8 rel)) : Instr.StaysIn (.jcxzRel8 rel) R :=
  ⟨jumpIfCxZero rel, fun _ => rfl, F.jumpIfCxZero rfl⟩

theorem stays_callRel16 {rel} (F : Allows R (.callRel16 rel)) : Instr.StaysIn (.callRel16 rel) R :=
  ⟨callBy rel, fun _ => rfl, F.callBy rfl (.head _)⟩

theorem stays_jmpRel16 {rel} (F : Allows R (.jmpRel16 rel)) : Instr.StaysIn (.jmpRel16 rel) R :=
  ⟨jumpBy rel, fun _ => rfl, F.jumpBy rfl⟩

theorem stays_jmpPtr1616 {off} {seg} (F : Allows R (.jmpPtr1616 off seg)) : Instr.StaysIn (.jmpPtr1616 off seg) R :=
  ⟨jumpFar off seg, fun _ => rfl, F.jumpFar rfl (.head _)⟩

theorem stays_jmpRel8 {rel} (F : Allows R (.jmpRel8 rel)) : Instr.StaysIn (.jmpRel8 rel) R :=
  ⟨jumpBy (sext8 rel), fun _ => rfl, F.jumpBy rfl⟩

theorem stays_repnzBroken {_b} (F : Allows R (.repnzBroken _b)) : Instr.StaysIn (.repnzBroken _b) R :=
  ⟨raise .invalidOpcode, fun _ => rfl, F.raise _⟩

theorem stays_repBroken {_b} (F : Allows R (.repBroken _b)) : Instr.StaysIn (.repBroken _b) R :=
  ⟨raise .invalidOpcode, fun _ => rfl, F.raise _⟩

theorem stays_testEbImm8 {rm} {imm} (F : Allows R (.testEbImm8 rm imm)) : Instr.StaysIn (.testEbImm8 rm imm) R :=
  ⟨withRm8 rm fun d => alu .test d (immediate imm), fun _ => rfl, F.rm8 fun g => F.alu (op := .test) rfl (F.get8 g rm) (F.immGet _) (fun h => absurd h (by decide))⟩

theorem stays_invalidF6s1 {_mm} {_iii} (F : Allows R (.invalidF6s1 _mm _iii)) : Instr.StaysIn (.invalidF6s1 _mm _iii) R :=
  ⟨raise .invalidOpcode, fun _ => rfl, F.raise _⟩

theorem stays_notEb {rm} (F : Allows R (.notEb rm)) : Instr.StaysIn (.notEb rm) R :=
  ⟨withRm8 rm complement, fun _ => rfl, F.rm8 fun g => F.complement (F.get8 g rm) (F.set8 rfl g)⟩

theorem stays_negEb {rm} (F : Allows R (.negEb rm)) : Instr.StaysIn (.negEb rm) R :=
  ⟨withRm8 rm negate, fun _ => rfl, F.rm8 fun g => F.negate rfl (F.get8 g rm) (F.set8 rfl g)⟩

theorem stays_mulEb {rm} (F : Allows R (.mulEb rm)) : Instr.StaysIn (.mulEb rm) R :=
  ⟨withRm8 rm mulByte, fun _ => rfl, F.rm8 fun g => F.mulByte rfl (F.get8 g rm) (.head _)⟩

theorem stays_imulEb {rm} (F : Allows R (.imulEb rm)) : Instr.StaysIn (.imulEb rm) R :=
  ⟨withRm8 rm imulByte, fun _ => rfl, F.rm8 fun g => F.imulByte rfl (F.get8 g rm) (.head _)⟩

theorem stays_divEb {rm} (F : Allows R (.divEb rm)) : Instr.StaysIn (.divEb rm) R :=
  ⟨withRm8 rm divByte, fun _ => rfl, F.rm8 fun g => F.divByte rfl (F.get8 g rm) (.head _)⟩

theorem stays_idivEb {rm} (F : Allows R (.idivEb rm)) : Instr.StaysIn (.idivEb rm) R :=
  ⟨withRm8 rm idivByte, fun _ => rfl, F.rm8 fun g => F.idivByte rfl (F.get8 g rm) (.head _)⟩

theorem stays_testEwImm16 {rm} {imm} (F : Allows R (.testEwImm16 rm imm)) : Instr.StaysIn (.testEwImm16 rm imm) R :=
  ⟨withRm16 rm fun d => alu .test d (immediate imm), fun _ => rfl, F.rm16 fun g => F.alu (op := .test) rfl (F.get16 g rm) (F.immGet _) (fun h => absurd h (by decide))⟩

theorem stays_invalidF7s1 {_mm} {_iii} (F : Allows R (.invalidF7s1 _mm _iii)) : Instr.StaysIn (.invalidF7s1 _mm _iii) R :=
  ⟨raise .invalidOpcode, fun _ => rfl, F.raise _⟩

theorem stays_notEw {rm} (F : Allows R (.notEw rm)) : Instr.StaysIn (.notEw rm) R :=
  ⟨withRm16 rm complement, fun _ => rfl, F.rm16 fun g => F.complement (F.get16 g rm) (F.set16 rfl g)⟩

theorem stays_negEw {rm} (F : Allows R (.negEw rm)) : Instr.StaysIn (.negEw rm) R :=
  ⟨withRm16 rm negate, fun _ => rfl, F.rm16 fun g => F.negate rfl (F.get16 g rm) (F.set16 rfl g)⟩

theorem stays_mulEw {rm} (F : Allows R (.mulEw rm)) : Instr.StaysIn (.mulEw rm) R :=
  ⟨withRm16 rm mulWord, fun _ => rfl, F.rm16 fun g => F.mulWord rfl (F.get16 g rm) (.head _) (.tail _ (.head _))⟩

theorem stays_imulEw {rm} (F : Allows R (.imulEw rm)) : Instr.StaysIn (.imulEw rm) R :=
  ⟨withRm16 rm imulWord, fun _ => rfl, F.rm16 fun g => F.imulWord rfl (F.get16 g rm) (.head _) (.tail _ (.head _))⟩

theorem stays_divEw {rm} (F : Allows R (.divEw rm)) : Instr.StaysIn (.divEw rm) R :=
  ⟨withRm16 rm divWord, fun _ => rfl, F.rm16 fun g => F.divWord rfl (F.get16 g rm) (.head _) (.tail _ (.head _))⟩

theorem stays_idivEw {rm} (F : Allows R (.idivEw rm)) : Instr.StaysIn (.idivEw rm) R :=
  ⟨withRm16 rm idivWord, fun _ => rfl, F.rm16 fun g => F.idivWord rfl (F.get16 g rm) (.head _) (.tail _ (.head _))⟩

theorem stays_incEb {rm} (F : Allows R (.incEb rm)) : Instr.StaysIn (.incEb rm) R :=
  ⟨withRm8 rm increment, fun _ => rfl, F.rm8 fun g => F.increment rfl (F.get8 g rm) (F.set8 rfl g)⟩

theorem stays_decEb {rm} (F : Allows R (.decEb rm)) : Instr.StaysIn (.decEb rm) R :=
  ⟨withRm8 rm decrement, fun _ => rfl, F.rm8 fun g => F.decrement rfl (F.get8 g rm) (F.set8 rfl g)⟩

theorem stays_invalidFEs2 {_mm} {_iii} (F : Allows R (.invalidFEs2 _mm _iii)) : Instr.StaysIn (.invalidFEs2 _mm _iii) R :=
  ⟨raise .invalidOpcode, fun _ => rfl, F.raise _⟩

theorem stays_invalidFEs3 {_mm} {_iii} (F : Allows R (.invalidFEs3 _mm _iii)) : Instr.StaysIn (.invalidFEs3 _mm _iii) R :=
  ⟨raise .invalidOpcode, fun _ => rfl, F.raise _⟩

theorem stays_invalidFEs4 {_mm} {_iii} (F : Allows R (.invalidFEs4 _mm _iii)) : Instr.StaysIn (.invalidFEs4 _mm _iii) R :=
  ⟨raise .invalidOpcode, fun _ => rfl, F.raise _⟩

theorem stays_invalidFEs5 {_mm} {_iii} (F : Allows R (.invalidFEs5 _mm _iii)) : Instr.StaysIn (.invalidFEs5 _mm _iii) R :=
  ⟨raise .invalidOpcode, fun _ => rfl, F.raise _⟩

theorem stays_invalidFEs6 {_mm} {_iii} (F : Allows R (.invalidFEs6 _mm _iii)) : Instr.StaysIn (.invalidFEs6 _mm _iii) R :=
  ⟨raise .invalidOpcode, fun _ => rfl, F.raise _⟩

theorem stays_invalidFEs7 {_mm} {_iii} (F : Allows R (.invalidFEs7 _mm _iii)) : Instr.StaysIn (.invalidFEs7 _mm _iii) R :=
  ⟨raise .invalidOpcode, fun _ => rfl, F.raise _⟩

theorem stays_incEw {rm} (F : Allows R (.incEw rm)) : Instr.StaysIn (.incEw rm) R :=
  ⟨withRm16 rm increment, fun _ => rfl, F.rm16 fun g => F.increment rfl (F.get16 g rm) (F.set16 rfl g)⟩

theorem stays_decEw {rm} (F : Allows R (.decEw rm)) : Instr.StaysIn (.decEw rm) R :=
  ⟨withRm16 rm decrement, fun _ => rfl, F.rm16 fun g => F.decrement rfl (F.get16 g rm) (F.set16 rfl g)⟩

theorem stays_callEw {rm} (F : Allows R (.callEw rm)) : Instr.StaysIn (.callEw rm) R :=
  ⟨withRm16 rm callIndirect, fun _ => rfl, F.rm16 fun g => F.callIndirect rfl (.head _) (F.get16 g rm)⟩

theorem stays_callFarM {m} (F : Allows R (.callFarM m)) : Instr.StaysIn (.callFarM m) R :=
  ⟨callFarIndirect m, fun _ => rfl, F.callFarIndirect rfl (.head _) (.head _)⟩

theorem stays_jmpEw {rm} (F : Allows R (.jmpEw rm)) : Instr.StaysIn (.jmpEw rm) R :=
  ⟨withRm16 rm jumpIndirect, fun _ => rfl, F.rm16 fun g => F.jumpIndirect rfl (F.get16 g rm)⟩

theorem stays_jmpFarM {m} (F : Allows R (.jmpFarM m)) : Instr.StaysIn (.jmpFarM m) R :=
  ⟨jumpFarIndirect m, fun _ => rfl, F.jumpFarIndirect rfl (.head _)⟩

theorem stays_pushEw {rm} (F : Allows R (.pushEw rm)) : Instr.StaysIn (.pushEw rm) R :=
  ⟨withRm16 rm pushOperand, fun _ => rfl, F.rm16 fun g => F.pushOperand (.head _) (F.get16 g rm)⟩

theorem stays_invalidFFs7 {_mm} {_iii} (F : Allows R (.invalidFFs7 _mm _iii)) : Instr.StaysIn (.invalidFFs7 _mm _iii) R :=
  ⟨raise .invalidOpcode, fun _ => rfl, F.raise _⟩

theorem stays_callFarRegister {_iii} (F : Allows R (.callFarRegister _iii)) : Instr.StaysIn (.callFarRegister _iii) R :=
  ⟨raise .invalidOpcode, fun _ => rfl, F.raise _⟩

theorem stays_jmpFarRegister {_iii} (F : Allows R (.jmpFarRegister _iii)) : Instr.StaysIn (.jmpFarRegister _iii) R :=
  ⟨raise .invalidOpcode, fun _ => rfl, F.raise _⟩

theorem stays_pushEs (F : Allows R .pushEs) : Instr.StaysIn .pushEs R :=
  ⟨pushSreg .ES, fun _ => rfl, F.pushSreg (.head _)⟩

theorem stays_pushCs (F : Allows R .pushCs) : Instr.StaysIn .pushCs R :=
  ⟨pushSreg .CS, fun _ => rfl, F.pushSreg (.head _)⟩

theorem stays_pushSs (F : Allows R .pushSs) : Instr.StaysIn .pushSs R :=
  ⟨pushSreg .SS, fun _ => rfl, F.pushSreg (.head _)⟩

theorem stays_pushDs (F : Allows R .pushDs) : Instr.StaysIn .pushDs R :=
  ⟨pushSreg .DS, fun _ => rfl, F.pushSreg (.head _)⟩

theorem stays_popEs (F : Allows R .popEs) : Instr.StaysIn .popEs R :=
  ⟨popSreg .ES, fun _ => rfl, F.popSreg (.head _) (.head _)⟩

theorem stays_popSs (F : Allows R .popSs) : Instr.StaysIn .popSs R :=
  ⟨popSreg .SS, fun _ => rfl, F.popSreg (.head _) (.head _)⟩

theorem stays_popDs (F : Allows R .popDs) : Instr.StaysIn .popDs R :=
  ⟨popSreg .DS, fun _ => rfl, F.popSreg (.head _) (.head _)⟩

theorem stays_invalid0F (F : Allows R .invalid0F) : Instr.StaysIn .invalid0F R :=
  ⟨raise .invalidOpcode, fun _ => rfl, F.raise _⟩

theorem stays_esOverride (F : Allows R .esOverride) : Instr.StaysIn .esOverride R :=
  ⟨raise .unimplementedOpcode, fun _ => rfl, F.raise _⟩

theorem stays_csOverride (F : Allows R .csOverride) : Instr.StaysIn .csOverride R :=
  ⟨raise .unimplementedOpcode, fun _ => rfl, F.raise _⟩

theorem stays_ssOverride (F : Allows R .ssOverride) : Instr.StaysIn .ssOverride R :=
  ⟨raise .unimplementedOpcode, fun _ => rfl, F.raise _⟩

theorem stays_dsOverride (F : Allows R .dsOverride) : Instr.StaysIn .dsOverride R :=
  ⟨raise .unimplementedOpcode, fun _ => rfl, F.raise _⟩

theorem stays_daa (F : Allows R .daa) : Instr.StaysIn .daa R := ⟨raise .unimplementedOpcode, fun _ => rfl, F.raise _⟩

theorem stays_das (F : Allows R .das) : Instr.StaysIn .das R := ⟨raise .unimplementedOpcode, fun _ => rfl, F.raise _⟩

theorem stays_aaa (F : Allows R .aaa) : Instr.StaysIn .aaa R := ⟨raise .unimplementedOpcode, fun _ => rfl, F.raise _⟩

theorem stays_aas (F : Allows R .aas) : Instr.StaysIn .aas R := ⟨raise .unimplementedOpcode, fun _ => rfl, F.raise _⟩

theorem stays_aam (F : Allows R .aam) : Instr.StaysIn .aam R := ⟨raise .unimplementedOpcode, fun _ => rfl, F.raise _⟩

theorem stays_aad (F : Allows R .aad) : Instr.StaysIn .aad R := ⟨raise .unimplementedOpcode, fun _ => rfl, F.raise _⟩

theorem stays_pusha (F : Allows R .pusha) : Instr.StaysIn .pusha R := ⟨pushAll, fun _ => rfl, F.pushAll (.head _)⟩

theorem stays_popa (F : Allows R .popa) : Instr.StaysIn .popa R :=
  ⟨popAll, fun _ => rfl, F.popAll fun q => by cases q <;> decide⟩

theorem stays_bound (F : Allows R .bound) : Instr.StaysIn .bound R :=
  ⟨raise .unimplementedOpcode, fun _ => rfl, F.raise _⟩

theorem stays_invalid63 (F : Allows R .invalid63) : Instr.StaysIn .invalid63 R :=
  ⟨raise .invalidOpcode, fun _ => rfl, F.raise _⟩

theorem stays_invalid64 (F : Allows R .invalid64) : Instr.StaysIn .invalid64 R :=
  ⟨raise .invalidOpcode, fun _ => rfl, F.raise _⟩

theorem stays_invalid65 (F : Allows R .invalid65) : Instr.StaysIn .invalid65 R :=
  ⟨raise .invalidOpcode, fun _ => rfl, F.raise _⟩

theorem stays_invalid66 (F : Allows R .invalid66) : Instr.StaysIn .invalid66 R :=
  ⟨raise .invalidOpcode, fun _ => rfl, F.raise _⟩

theorem stays_invalid67 (F : Allows R .invalid67) : Instr.StaysIn .invalid67 R :=
  ⟨raise .invalidOpcode, fun _ => rfl, F.raise _⟩

theorem stays_insb (F : Allows R .insb) : Instr.StaysIn .insb R :=
  ⟨raise .unimplementedOpcode, fun _ => rfl, F.raise _⟩

theorem stays_insw (F : Allows R .insw) : Instr.StaysIn .insw R :=
  ⟨raise .unimplementedOpcode, fun _ => rfl, F.raise _⟩

theorem stays_outsb (F : Allows R .outsb) : Instr.StaysIn .outsb R :=
  ⟨raise .unimplementedOpcode, fun _ => rfl, F.raise _⟩

theorem stays_outsw (F : Allows R .outsw) : Instr.StaysIn .outsw R :=
  ⟨raise .unimplementedOpcode, fun _ => rfl, F.raise _⟩

theorem stays_invalid82 (F : Allows R .invalid82) : Instr.StaysIn .invalid82 R :=
  ⟨raise .invalidOpcode, fun _ => rfl, F.raise _⟩

theorem stays_nop (F : Allows R .nop) : Instr.StaysIn .nop R := ⟨pure (), fun _ => rfl, F.pure _⟩

theorem stays_cbw (F : Allows R .cbw) : Instr.StaysIn .cbw R :=
  ⟨modHart fun h => { h with AX := sext8 (h.get8 .AL) }, fun _ => rfl, F.setWord (q := .AX) (.inl (.head _)) fun x => sext8 (x.get8 .AL)⟩

theorem stays_cwd (F : Allows R .cwd) : Instr.StaysIn .cwd R :=
  ⟨modHart fun h => { h with DX := if h.AX.msb then 0xFFFF else 0 }, fun _ => rfl, F.setWord (q := .DX) (.inl (.head _)) fun x => if x.AX.msb then 0xFFFF else 0⟩

theorem stays_nrg (F : Allows R .nrg) : Instr.StaysIn .nrg R := ⟨gainEnergy, fun _ => rfl, F.gainEnergy rfl⟩

theorem stays_pushf (F : Allows R .pushf) : Instr.StaysIn .pushf R :=
  ⟨pushFlags, fun _ => rfl, F.bind F.getHart fun _ => F.push (.head _)⟩

theorem stays_popf (F : Allows R .popf) : Instr.StaysIn .popf R := ⟨popFlags, fun _ => rfl, F.popFlags rfl (.head _)⟩

theorem stays_sahf (F : Allows R .sahf) : Instr.StaysIn .sahf R :=
  ⟨storeAhIntoFlags, fun _ => rfl, F.bind F.getHart fun x => F.setFlags fun f => outside_fromAH f (x.get8 .AH)⟩

theorem stays_lahf (F : Allows R .lahf) : Instr.StaysIn .lahf R :=
  ⟨loadAhFromFlags, fun _ => rfl, F.setByte (q := .AH) (.inl (.head _)) fun x => lowByte x.flags.toWord⟩

theorem stays_movsb (F : Allows R .movsb) : Instr.StaysIn .movsb R :=
  ⟨movs byteElement, fun _ => rfl, F.movs8 (.head _) (.tail _ (.head _))⟩

theorem stays_movsw (F : Allows R .movsw) : Instr.StaysIn .movsw R :=
  ⟨movs wordElement, fun _ => rfl, F.movs16 (.head _) (.tail _ (.head _))⟩

theorem stays_cmpsb (F : Allows R .cmpsb) : Instr.StaysIn .cmpsb R :=
  ⟨cmps byteElement, fun _ => rfl, F.cmps8 rfl (.head _) (.tail _ (.head _))⟩

theorem stays_cmpsw (F : Allows R .cmpsw) : Instr.StaysIn .cmpsw R :=
  ⟨cmps wordElement, fun _ => rfl, F.cmps16 rfl (.head _) (.tail _ (.head _))⟩

theorem stays_stosb (F : Allows R .stosb) : Instr.StaysIn .stosb R :=
  ⟨stos byteElement, fun _ => rfl, F.stos8 (.head _)⟩

theorem stays_stosw (F : Allows R .stosw) : Instr.StaysIn .stosw R :=
  ⟨stos wordElement, fun _ => rfl, F.stos16 (.head _)⟩

theorem stays_lodsb (F : Allows R .lodsb) : Instr.StaysIn .lodsb R :=
  ⟨lods byteElement, fun _ => rfl, F.lods8 (.head _) (.head _)⟩

theorem stays_lodsw (F : Allows R .lodsw) : Instr.StaysIn .lodsw R :=
  ⟨lods wordElement, fun _ => rfl, F.lods16 (.head _) (.tail _ (.head _))⟩

theorem stays_scasb (F : Allows R .scasb) : Instr.StaysIn .scasb R :=
  ⟨scas byteElement, fun _ => rfl, F.scas8 rfl (.head _)⟩

theorem stays_scasw (F : Allows R .scasw) : Instr.StaysIn .scasw R :=
  ⟨scas wordElement, fun _ => rfl, F.scas16 rfl (.head _)⟩

theorem stays_ret (F : Allows R .ret) : Instr.StaysIn .ret R :=
  ⟨nearReturn 0, fun _ => rfl, F.nearReturn rfl (.head _)⟩

theorem stays_leave (F : Allows R .leave) : Instr.StaysIn .leave R :=
  ⟨leaveFrame, fun _ => rfl, F.leaveFrame (.head _) (.tail _ (.head _))⟩

theorem stays_retf (F : Allows R .retf) : Instr.StaysIn .retf R :=
  ⟨farReturn 0, fun _ => rfl, F.farReturn rfl (.head _) (.head _)⟩

theorem stays_int3 (F : Allows R .int3) : Instr.StaysIn .int3 R :=
  ⟨dispatch 3, fun _ => rfl, F.dispatch rfl rfl (.head _) (.head _)⟩

theorem stays_int86 (F : Allows R .int86) : Instr.StaysIn .int86 R := ⟨carpetBomb, fun _ => rfl, F.carpetBomb rfl⟩

theorem stays_int87 (F : Allows R .int87) : Instr.StaysIn .int87 R := ⟨smartBomb, fun _ => rfl, F.smartBomb rfl⟩

theorem stays_int88 (F : Allows R .int88) : Instr.StaysIn .int88 R := ⟨thirdBomb, fun _ => rfl, F.thirdBomb rfl⟩

theorem stays_into (F : Allows R .into) : Instr.StaysIn .into R :=
  ⟨interruptOnOverflow, fun _ => rfl, F.interruptOnOverflow rfl rfl (.head _) (.head _)⟩

theorem stays_iret (F : Allows R .iret) : Instr.StaysIn .iret R :=
  ⟨interruptReturn, fun _ => rfl, F.interruptReturn rfl rfl (.head _) (.head _)⟩

theorem stays_invalidD6 (F : Allows R .invalidD6) : Instr.StaysIn .invalidD6 R :=
  ⟨raise .invalidOpcode, fun _ => rfl, F.raise _⟩

theorem stays_xlat (F : Allows R .xlat) : Instr.StaysIn .xlat R :=
  ⟨translate, fun _ => rfl, F.bind F.getHart fun _ => F.bind (F.readByte _ _) fun v => F.byteSet (.head _) v⟩

theorem stays_inAlImm8 (F : Allows R .inAlImm8) : Instr.StaysIn .inAlImm8 R :=
  ⟨raise .unimplementedOpcode, fun _ => rfl, F.raise _⟩

theorem stays_inAxImm8 (F : Allows R .inAxImm8) : Instr.StaysIn .inAxImm8 R :=
  ⟨raise .unimplementedOpcode, fun _ => rfl, F.raise _⟩

theorem stays_outImm8Al (F : Allows R .outImm8Al) : Instr.StaysIn .outImm8Al R :=
  ⟨raise .unimplementedOpcode, fun _ => rfl, F.raise _⟩

theorem stays_outImm8Ax (F : Allows R .outImm8Ax) : Instr.StaysIn .outImm8Ax R :=
  ⟨raise .unimplementedOpcode, fun _ => rfl, F.raise _⟩

theorem stays_inAlDx (F : Allows R .inAlDx) : Instr.StaysIn .inAlDx R :=
  ⟨raise .unimplementedOpcode, fun _ => rfl, F.raise _⟩

theorem stays_inAxDx (F : Allows R .inAxDx) : Instr.StaysIn .inAxDx R :=
  ⟨raise .unimplementedOpcode, fun _ => rfl, F.raise _⟩

theorem stays_outDxAl (F : Allows R .outDxAl) : Instr.StaysIn .outDxAl R :=
  ⟨raise .unimplementedOpcode, fun _ => rfl, F.raise _⟩

theorem stays_outDxAx (F : Allows R .outDxAx) : Instr.StaysIn .outDxAx R :=
  ⟨raise .unimplementedOpcode, fun _ => rfl, F.raise _⟩

theorem stays_lock (F : Allows R .lock) : Instr.StaysIn .lock R :=
  ⟨raise .unimplementedOpcode, fun _ => rfl, F.raise _⟩

theorem stays_invalidF1 (F : Allows R .invalidF1) : Instr.StaysIn .invalidF1 R :=
  ⟨raise .invalidOpcode, fun _ => rfl, F.raise _⟩

theorem stays_repnzMovsb (F : Allows R .repnzMovsb) : Instr.StaysIn .repnzMovsb R :=
  ⟨repeatString (movs byteElement) neverStop, fun _ => rfl, F.repeatString (.head _) (F.movs8 (.tail _ (.head _)) (.tail _ (.tail _ (.head _))))⟩

theorem stays_repnzMovsw (F : Allows R .repnzMovsw) : Instr.StaysIn .repnzMovsw R :=
  ⟨repeatString (movs wordElement) neverStop, fun _ => rfl, F.repeatString (.head _) (F.movs16 (.tail _ (.head _)) (.tail _ (.tail _ (.head _))))⟩

theorem stays_repnzCmpsb (F : Allows R .repnzCmpsb) : Instr.StaysIn .repnzCmpsb R :=
  ⟨repeatString (cmps byteElement) stopZero, fun _ => rfl, F.repeatString (.head _) (F.cmps8 rfl (.tail _ (.head _)) (.tail _ (.tail _ (.head _))))⟩

theorem stays_repnzCmpsw (F : Allows R .repnzCmpsw) : Instr.StaysIn .repnzCmpsw R :=
  ⟨repeatString (cmps wordElement) stopZero, fun _ => rfl, F.repeatString (.head _) (F.cmps16 rfl (.tail _ (.head _)) (.tail _ (.tail _ (.head _))))⟩

theorem stays_repnzStosb (F : Allows R .repnzStosb) : Instr.StaysIn .repnzStosb R :=
  ⟨repeatString (stos byteElement) neverStop, fun _ => rfl, F.repeatString (.head _) (F.stos8 (.tail _ (.head _)))⟩

theorem stays_repnzStosw (F : Allows R .repnzStosw) : Instr.StaysIn .repnzStosw R :=
  ⟨repeatString (stos wordElement) neverStop, fun _ => rfl, F.repeatString (.head _) (F.stos16 (.tail _ (.head _)))⟩

theorem stays_repnzLodsb (F : Allows R .repnzLodsb) : Instr.StaysIn .repnzLodsb R :=
  ⟨repeatString (lods byteElement) neverStop, fun _ => rfl, F.repeatString (.head _) (F.lods8 (.head _) (.tail _ (.head _)))⟩

theorem stays_repnzLodsw (F : Allows R .repnzLodsw) : Instr.StaysIn .repnzLodsw R :=
  ⟨repeatString (lods wordElement) neverStop, fun _ => rfl, F.repeatString (.head _) (F.lods16 (.tail _ (.head _)) (.tail _ (.tail _ (.head _))))⟩

theorem stays_repnzScasb (F : Allows R .repnzScasb) : Instr.StaysIn .repnzScasb R :=
  ⟨repeatString (scas byteElement) stopZero, fun _ => rfl, F.repeatString (.head _) (F.scas8 rfl (.tail _ (.head _)))⟩

theorem stays_repnzScasw (F : Allows R .repnzScasw) : Instr.StaysIn .repnzScasw R :=
  ⟨repeatString (scas wordElement) stopZero, fun _ => rfl, F.repeatString (.head _) (F.scas16 rfl (.tail _ (.head _)))⟩

theorem stays_repMovsb (F : Allows R .repMovsb) : Instr.StaysIn .repMovsb R :=
  ⟨repeatString (movs byteElement) neverStop, fun _ => rfl, F.repeatString (.head _) (F.movs8 (.tail _ (.head _)) (.tail _ (.tail _ (.head _))))⟩

theorem stays_repMovsw (F : Allows R .repMovsw) : Instr.StaysIn .repMovsw R :=
  ⟨repeatString (movs wordElement) neverStop, fun _ => rfl, F.repeatString (.head _) (F.movs16 (.tail _ (.head _)) (.tail _ (.tail _ (.head _))))⟩

theorem stays_repzCmpsb (F : Allows R .repzCmpsb) : Instr.StaysIn .repzCmpsb R :=
  ⟨repeatString (cmps byteElement) stopNotZero, fun _ => rfl, F.repeatString (.head _) (F.cmps8 rfl (.tail _ (.head _)) (.tail _ (.tail _ (.head _))))⟩

theorem stays_repzCmpsw (F : Allows R .repzCmpsw) : Instr.StaysIn .repzCmpsw R :=
  ⟨repeatString (cmps wordElement) stopNotZero, fun _ => rfl, F.repeatString (.head _) (F.cmps16 rfl (.tail _ (.head _)) (.tail _ (.tail _ (.head _))))⟩

theorem stays_repStosb (F : Allows R .repStosb) : Instr.StaysIn .repStosb R :=
  ⟨repeatString (stos byteElement) neverStop, fun _ => rfl, F.repeatString (.head _) (F.stos8 (.tail _ (.head _)))⟩

theorem stays_repStosw (F : Allows R .repStosw) : Instr.StaysIn .repStosw R :=
  ⟨repeatString (stos wordElement) neverStop, fun _ => rfl, F.repeatString (.head _) (F.stos16 (.tail _ (.head _)))⟩

theorem stays_repLodsb (F : Allows R .repLodsb) : Instr.StaysIn .repLodsb R :=
  ⟨repeatString (lods byteElement) neverStop, fun _ => rfl, F.repeatString (.head _) (F.lods8 (.head _) (.tail _ (.head _)))⟩

theorem stays_repLodsw (F : Allows R .repLodsw) : Instr.StaysIn .repLodsw R :=
  ⟨repeatString (lods wordElement) neverStop, fun _ => rfl, F.repeatString (.head _) (F.lods16 (.tail _ (.head _)) (.tail _ (.tail _ (.head _))))⟩

theorem stays_repzScasb (F : Allows R .repzScasb) : Instr.StaysIn .repzScasb R :=
  ⟨repeatString (scas byteElement) stopNotZero, fun _ => rfl, F.repeatString (.head _) (F.scas8 rfl (.tail _ (.head _)))⟩

theorem stays_repzScasw (F : Allows R .repzScasw) : Instr.StaysIn .repzScasw R :=
  ⟨repeatString (scas wordElement) stopNotZero, fun _ => rfl, F.repeatString (.head _) (F.scas16 rfl (.tail _ (.head _)))⟩

theorem stays_hlt (F : Allows R .hlt) : Instr.StaysIn .hlt R := ⟨raise .unimplementedOpcode, fun _ => rfl, F.raise _⟩

theorem stays_cmc (F : Allows R .cmc) : Instr.StaysIn .cmc R :=
  ⟨modFlags fun f => { f with CF := !f.CF }, fun _ => rfl, F.setFlags fun f => outside_cf f (!f.CF)⟩

theorem stays_clc (F : Allows R .clc) : Instr.StaysIn .clc R :=
  ⟨modFlags fun f => { f with CF := false }, fun _ => rfl, F.setFlags fun f => outside_cf f _⟩

theorem stays_stc (F : Allows R .stc) : Instr.StaysIn .stc R :=
  ⟨modFlags fun f => { f with CF := true }, fun _ => rfl, F.setFlags fun f => outside_cf f _⟩

theorem stays_cli (F : Allows R .cli) : Instr.StaysIn .cli R :=
  ⟨modFlags fun f => { f with IF := false }, fun _ => rfl, F.setFlags fun f => outside_if f _⟩

theorem stays_sti (F : Allows R .sti) : Instr.StaysIn .sti R :=
  ⟨modFlags fun f => { f with IF := true }, fun _ => rfl, F.setFlags fun f => outside_if f _⟩

theorem stays_cld (F : Allows R .cld) : Instr.StaysIn .cld R :=
  ⟨modFlags fun f => { f with DF := false }, fun _ => rfl, F.setFlags fun f => outside_df f _⟩

theorem stays_std (F : Allows R .std) : Instr.StaysIn .std R :=
  ⟨modFlags fun f => { f with DF := true }, fun _ => rfl, F.setFlags fun f => outside_df f _⟩

theorem stays_intImm8 {n : Byte} (F : Allows R (.intImm8 n)) (h : isVirtualVector n = false) :
    Instr.StaysIn (.intImm8 n) R :=
  ⟨interrupt n, fun _ => rfl, by rw [interrupt_eq_dispatch h]; exact F.dispatch rfl rfl (.head _) (.head _)⟩

/-- Every instruction stays inside every relation that allows the writes it may make. -/
theorem exec_stays : ∀ {i : Instr}, Allows R i → i.wf = true → Instr.StaysIn i R := by
  intro i F hw
  cases i
  case intImm8 => exact stays_intImm8 F (by simpa [Instr.wf] using hw)
  case addEbGb => exact stays_addEbGb F
  case addEwGw => exact stays_addEwGw F
  case addGbEb => exact stays_addGbEb F
  case addGwEw => exact stays_addGwEw F
  case addAlImm8 => exact stays_addAlImm8 F
  case addAxImm16 => exact stays_addAxImm16 F
  case orEbGb => exact stays_orEbGb F
  case orEwGw => exact stays_orEwGw F
  case orGbEb => exact stays_orGbEb F
  case orGwEw => exact stays_orGwEw F
  case orAlImm8 => exact stays_orAlImm8 F
  case orAxImm16 => exact stays_orAxImm16 F
  case adcEbGb => exact stays_adcEbGb F
  case adcEwGw => exact stays_adcEwGw F
  case adcGbEb => exact stays_adcGbEb F
  case adcGwEw => exact stays_adcGwEw F
  case adcAlImm8 => exact stays_adcAlImm8 F
  case adcAxImm16 => exact stays_adcAxImm16 F
  case sbbEbGb => exact stays_sbbEbGb F
  case sbbEwGw => exact stays_sbbEwGw F
  case sbbGbEb => exact stays_sbbGbEb F
  case sbbGwEw => exact stays_sbbGwEw F
  case sbbAlImm8 => exact stays_sbbAlImm8 F
  case sbbAxImm16 => exact stays_sbbAxImm16 F
  case andEbGb => exact stays_andEbGb F
  case andEwGw => exact stays_andEwGw F
  case andGbEb => exact stays_andGbEb F
  case andGwEw => exact stays_andGwEw F
  case andAlImm8 => exact stays_andAlImm8 F
  case andAxImm16 => exact stays_andAxImm16 F
  case subEbGb => exact stays_subEbGb F
  case subEwGw => exact stays_subEwGw F
  case subGbEb => exact stays_subGbEb F
  case subGwEw => exact stays_subGwEw F
  case subAlImm8 => exact stays_subAlImm8 F
  case subAxImm16 => exact stays_subAxImm16 F
  case xorEbGb => exact stays_xorEbGb F
  case xorEwGw => exact stays_xorEwGw F
  case xorGbEb => exact stays_xorGbEb F
  case xorGwEw => exact stays_xorGwEw F
  case xorAlImm8 => exact stays_xorAlImm8 F
  case xorAxImm16 => exact stays_xorAxImm16 F
  case cmpEbGb => exact stays_cmpEbGb F
  case cmpEwGw => exact stays_cmpEwGw F
  case cmpGbEb => exact stays_cmpGbEb F
  case cmpGwEw => exact stays_cmpGwEw F
  case cmpAlImm8 => exact stays_cmpAlImm8 F
  case cmpAxImm16 => exact stays_cmpAxImm16 F
  case incReg16 => exact stays_incReg16 F
  case decReg16 => exact stays_decReg16 F
  case pushReg16 => exact stays_pushReg16 F
  case popReg16 => exact stays_popReg16 F
  case pushImm16 => exact stays_pushImm16 F
  case imulGwEwImm16 => exact stays_imulGwEwImm16 F
  case pushSimm8 => exact stays_pushSimm8 F
  case imulGwEwSimm8 => exact stays_imulGwEwSimm8 F
  case joRel8 => exact stays_joRel8 F
  case jnoRel8 => exact stays_jnoRel8 F
  case jbRel8 => exact stays_jbRel8 F
  case jnbRel8 => exact stays_jnbRel8 F
  case jzRel8 => exact stays_jzRel8 F
  case jnzRel8 => exact stays_jnzRel8 F
  case jbeRel8 => exact stays_jbeRel8 F
  case jaRel8 => exact stays_jaRel8 F
  case jsRel8 => exact stays_jsRel8 F
  case jnsRel8 => exact stays_jnsRel8 F
  case jpRel8 => exact stays_jpRel8 F
  case jnpRel8 => exact stays_jnpRel8 F
  case jlRel8 => exact stays_jlRel8 F
  case jgeRel8 => exact stays_jgeRel8 F
  case jleRel8 => exact stays_jleRel8 F
  case jgRel8 => exact stays_jgRel8 F
  case addEbImm8 => exact stays_addEbImm8 F
  case orEbImm8 => exact stays_orEbImm8 F
  case adcEbImm8 => exact stays_adcEbImm8 F
  case sbbEbImm8 => exact stays_sbbEbImm8 F
  case andEbImm8 => exact stays_andEbImm8 F
  case subEbImm8 => exact stays_subEbImm8 F
  case xorEbImm8 => exact stays_xorEbImm8 F
  case cmpEbImm8 => exact stays_cmpEbImm8 F
  case addEwImm16 => exact stays_addEwImm16 F
  case orEwImm16 => exact stays_orEwImm16 F
  case adcEwImm16 => exact stays_adcEwImm16 F
  case sbbEwImm16 => exact stays_sbbEwImm16 F
  case andEwImm16 => exact stays_andEwImm16 F
  case subEwImm16 => exact stays_subEwImm16 F
  case xorEwImm16 => exact stays_xorEwImm16 F
  case cmpEwImm16 => exact stays_cmpEwImm16 F
  case addEwSimm8 => exact stays_addEwSimm8 F
  case orEwSimm8 => exact stays_orEwSimm8 F
  case adcEwSimm8 => exact stays_adcEwSimm8 F
  case sbbEwSimm8 => exact stays_sbbEwSimm8 F
  case andEwSimm8 => exact stays_andEwSimm8 F
  case subEwSimm8 => exact stays_subEwSimm8 F
  case xorEwSimm8 => exact stays_xorEwSimm8 F
  case cmpEwSimm8 => exact stays_cmpEwSimm8 F
  case testEbGb => exact stays_testEbGb F
  case testEwGw => exact stays_testEwGw F
  case xchgGbEb => exact stays_xchgGbEb F
  case xchgGwEw => exact stays_xchgGwEw F
  case movEbGb => exact stays_movEbGb F
  case movEwGw => exact stays_movEwGw F
  case movGbEb => exact stays_movGbEb F
  case movGwEw => exact stays_movGwEw F
  case movEwSw => exact stays_movEwSw F
  case leaGwM => exact stays_leaGwM F
  case leaRegister => exact stays_leaRegister F
  case movSwEw => exact stays_movSwEw F
  case popEw => exact stays_popEw F
  case invalid8Fs1 => exact stays_invalid8Fs1 F
  case invalid8Fs2 => exact stays_invalid8Fs2 F
  case invalid8Fs3 => exact stays_invalid8Fs3 F
  case invalid8Fs4 => exact stays_invalid8Fs4 F
  case invalid8Fs5 => exact stays_invalid8Fs5 F
  case invalid8Fs6 => exact stays_invalid8Fs6 F
  case invalid8Fs7 => exact stays_invalid8Fs7 F
  case xchgAxReg16 => exact stays_xchgAxReg16 F
  case callPtr1616 => exact stays_callPtr1616 F
  case nrgBroken => exact stays_nrgBroken F
  case movAlMoffs16 => exact stays_movAlMoffs16 F
  case movAxMoffs16 => exact stays_movAxMoffs16 F
  case movMoffs16Al => exact stays_movMoffs16Al F
  case movMoffs16Ax => exact stays_movMoffs16Ax F
  case testAlImm8 => exact stays_testAlImm8 F
  case testAxImm16 => exact stays_testAxImm16 F
  case movReg8Imm8 => exact stays_movReg8Imm8 F
  case movReg16Imm16 => exact stays_movReg16Imm16 F
  case rolEbImm8 => exact stays_rolEbImm8 F
  case rorEbImm8 => exact stays_rorEbImm8 F
  case rclEbImm8 => exact stays_rclEbImm8 F
  case rcrEbImm8 => exact stays_rcrEbImm8 F
  case shlEbImm8 => exact stays_shlEbImm8 F
  case shrEbImm8 => exact stays_shrEbImm8 F
  case invalidC0s6 => exact stays_invalidC0s6 F
  case sarEbImm8 => exact stays_sarEbImm8 F
  case rolEwImm8 => exact stays_rolEwImm8 F
  case rorEwImm8 => exact stays_rorEwImm8 F
  case rclEwImm8 => exact stays_rclEwImm8 F
  case rcrEwImm8 => exact stays_rcrEwImm8 F
  case shlEwImm8 => exact stays_shlEwImm8 F
  case shrEwImm8 => exact stays_shrEwImm8 F
  case invalidC1s6 => exact stays_invalidC1s6 F
  case sarEwImm8 => exact stays_sarEwImm8 F
  case rolEb1 => exact stays_rolEb1 F
  case rorEb1 => exact stays_rorEb1 F
  case rclEb1 => exact stays_rclEb1 F
  case rcrEb1 => exact stays_rcrEb1 F
  case shlEb1 => exact stays_shlEb1 F
  case shrEb1 => exact stays_shrEb1 F
  case invalidD0s6 => exact stays_invalidD0s6 F
  case sarEb1 => exact stays_sarEb1 F
  case rolEw1 => exact stays_rolEw1 F
  case rorEw1 => exact stays_rorEw1 F
  case rclEw1 => exact stays_rclEw1 F
  case rcrEw1 => exact stays_rcrEw1 F
  case shlEw1 => exact stays_shlEw1 F
  case shrEw1 => exact stays_shrEw1 F
  case invalidD1s6 => exact stays_invalidD1s6 F
  case sarEw1 => exact stays_sarEw1 F
  case rolEbCl => exact stays_rolEbCl F
  case rorEbCl => exact stays_rorEbCl F
  case rclEbCl => exact stays_rclEbCl F
  case rcrEbCl => exact stays_rcrEbCl F
  case shlEbCl => exact stays_shlEbCl F
  case shrEbCl => exact stays_shrEbCl F
  case invalidD2s6 => exact stays_invalidD2s6 F
  case sarEbCl => exact stays_sarEbCl F
  case rolEwCl => exact stays_rolEwCl F
  case rorEwCl => exact stays_rorEwCl F
  case rclEwCl => exact stays_rclEwCl F
  case rcrEwCl => exact stays_rcrEwCl F
  case shlEwCl => exact stays_shlEwCl F
  case shrEwCl => exact stays_shrEwCl F
  case invalidD3s6 => exact stays_invalidD3s6 F
  case sarEwCl => exact stays_sarEwCl F
  case retImm16 => exact stays_retImm16 F
  case lesGwM => exact stays_lesGwM F
  case lesRegister => exact stays_lesRegister F
  case ldsGwM => exact stays_ldsGwM F
  case ldsRegister => exact stays_ldsRegister F
  case movEbImm8 => exact stays_movEbImm8 F
  case movEwImm16 => exact stays_movEwImm16 F
  case invalidC6s1 => exact stays_invalidC6s1 F
  case invalidC6s2 => exact stays_invalidC6s2 F
  case invalidC6s3 => exact stays_invalidC6s3 F
  case invalidC6s4 => exact stays_invalidC6s4 F
  case invalidC6s5 => exact stays_invalidC6s5 F
  case invalidC6s6 => exact stays_invalidC6s6 F
  case invalidC6s7 => exact stays_invalidC6s7 F
  case invalidC7s1 => exact stays_invalidC7s1 F
  case invalidC7s2 => exact stays_invalidC7s2 F
  case invalidC7s3 => exact stays_invalidC7s3 F
  case invalidC7s4 => exact stays_invalidC7s4 F
  case invalidC7s5 => exact stays_invalidC7s5 F
  case invalidC7s6 => exact stays_invalidC7s6 F
  case invalidC7s7 => exact stays_invalidC7s7 F
  case enterImm16Imm8 => exact stays_enterImm16Imm8 F
  case retfImm16 => exact stays_retfImm16 F
  case esc => exact stays_esc F
  case loopnzRel8 => exact stays_loopnzRel8 F
  case loopzRel8 => exact stays_loopzRel8 F
  case loopRel8 => exact stays_loopRel8 F
  case jcxzRel8 => exact stays_jcxzRel8 F
  case callRel16 => exact stays_callRel16 F
  case jmpRel16 => exact stays_jmpRel16 F
  case jmpPtr1616 => exact stays_jmpPtr1616 F
  case jmpRel8 => exact stays_jmpRel8 F
  case repnzBroken => exact stays_repnzBroken F
  case repBroken => exact stays_repBroken F
  case testEbImm8 => exact stays_testEbImm8 F
  case invalidF6s1 => exact stays_invalidF6s1 F
  case notEb => exact stays_notEb F
  case negEb => exact stays_negEb F
  case mulEb => exact stays_mulEb F
  case imulEb => exact stays_imulEb F
  case divEb => exact stays_divEb F
  case idivEb => exact stays_idivEb F
  case testEwImm16 => exact stays_testEwImm16 F
  case invalidF7s1 => exact stays_invalidF7s1 F
  case notEw => exact stays_notEw F
  case negEw => exact stays_negEw F
  case mulEw => exact stays_mulEw F
  case imulEw => exact stays_imulEw F
  case divEw => exact stays_divEw F
  case idivEw => exact stays_idivEw F
  case incEb => exact stays_incEb F
  case decEb => exact stays_decEb F
  case invalidFEs2 => exact stays_invalidFEs2 F
  case invalidFEs3 => exact stays_invalidFEs3 F
  case invalidFEs4 => exact stays_invalidFEs4 F
  case invalidFEs5 => exact stays_invalidFEs5 F
  case invalidFEs6 => exact stays_invalidFEs6 F
  case invalidFEs7 => exact stays_invalidFEs7 F
  case incEw => exact stays_incEw F
  case decEw => exact stays_decEw F
  case callEw => exact stays_callEw F
  case callFarM => exact stays_callFarM F
  case jmpEw => exact stays_jmpEw F
  case jmpFarM => exact stays_jmpFarM F
  case pushEw => exact stays_pushEw F
  case invalidFFs7 => exact stays_invalidFFs7 F
  case callFarRegister => exact stays_callFarRegister F
  case jmpFarRegister => exact stays_jmpFarRegister F
  case pushEs => exact stays_pushEs F
  case pushCs => exact stays_pushCs F
  case pushSs => exact stays_pushSs F
  case pushDs => exact stays_pushDs F
  case popEs => exact stays_popEs F
  case popSs => exact stays_popSs F
  case popDs => exact stays_popDs F
  case invalid0F => exact stays_invalid0F F
  case esOverride => exact stays_esOverride F
  case csOverride => exact stays_csOverride F
  case ssOverride => exact stays_ssOverride F
  case dsOverride => exact stays_dsOverride F
  case daa => exact stays_daa F
  case das => exact stays_das F
  case aaa => exact stays_aaa F
  case aas => exact stays_aas F
  case aam => exact stays_aam F
  case aad => exact stays_aad F
  case pusha => exact stays_pusha F
  case popa => exact stays_popa F
  case bound => exact stays_bound F
  case invalid63 => exact stays_invalid63 F
  case invalid64 => exact stays_invalid64 F
  case invalid65 => exact stays_invalid65 F
  case invalid66 => exact stays_invalid66 F
  case invalid67 => exact stays_invalid67 F
  case insb => exact stays_insb F
  case insw => exact stays_insw F
  case outsb => exact stays_outsb F
  case outsw => exact stays_outsw F
  case invalid82 => exact stays_invalid82 F
  case nop => exact stays_nop F
  case cbw => exact stays_cbw F
  case cwd => exact stays_cwd F
  case nrg => exact stays_nrg F
  case pushf => exact stays_pushf F
  case popf => exact stays_popf F
  case sahf => exact stays_sahf F
  case lahf => exact stays_lahf F
  case movsb => exact stays_movsb F
  case movsw => exact stays_movsw F
  case cmpsb => exact stays_cmpsb F
  case cmpsw => exact stays_cmpsw F
  case stosb => exact stays_stosb F
  case stosw => exact stays_stosw F
  case lodsb => exact stays_lodsb F
  case lodsw => exact stays_lodsw F
  case scasb => exact stays_scasb F
  case scasw => exact stays_scasw F
  case ret => exact stays_ret F
  case leave => exact stays_leave F
  case retf => exact stays_retf F
  case int3 => exact stays_int3 F
  case int86 => exact stays_int86 F
  case int87 => exact stays_int87 F
  case int88 => exact stays_int88 F
  case into => exact stays_into F
  case iret => exact stays_iret F
  case invalidD6 => exact stays_invalidD6 F
  case xlat => exact stays_xlat F
  case inAlImm8 => exact stays_inAlImm8 F
  case inAxImm8 => exact stays_inAxImm8 F
  case outImm8Al => exact stays_outImm8Al F
  case outImm8Ax => exact stays_outImm8Ax F
  case inAlDx => exact stays_inAlDx F
  case inAxDx => exact stays_inAxDx F
  case outDxAl => exact stays_outDxAl F
  case outDxAx => exact stays_outDxAx F
  case lock => exact stays_lock F
  case invalidF1 => exact stays_invalidF1 F
  case repnzMovsb => exact stays_repnzMovsb F
  case repnzMovsw => exact stays_repnzMovsw F
  case repnzCmpsb => exact stays_repnzCmpsb F
  case repnzCmpsw => exact stays_repnzCmpsw F
  case repnzStosb => exact stays_repnzStosb F
  case repnzStosw => exact stays_repnzStosw F
  case repnzLodsb => exact stays_repnzLodsb F
  case repnzLodsw => exact stays_repnzLodsw F
  case repnzScasb => exact stays_repnzScasb F
  case repnzScasw => exact stays_repnzScasw F
  case repMovsb => exact stays_repMovsb F
  case repMovsw => exact stays_repMovsw F
  case repzCmpsb => exact stays_repzCmpsb F
  case repzCmpsw => exact stays_repzCmpsw F
  case repStosb => exact stays_repStosb F
  case repStosw => exact stays_repStosw F
  case repLodsb => exact stays_repLodsb F
  case repLodsw => exact stays_repLodsw F
  case repzScasb => exact stays_repzScasb F
  case repzScasw => exact stays_repzScasw F
  case hlt => exact stays_hlt F
  case cmc => exact stays_cmc F
  case clc => exact stays_clc F
  case stc => exact stays_stc F
  case cli => exact stays_cli F
  case sti => exact stays_sti F
  case cld => exact stays_cld F
  case std => exact stays_std F

end

end Sys2Proof.Machine
end

