-- ==== Sys2Proof/Laws/Params.lean ====
section
/-! SUPPORT. What a legal configuration of the parameters gives. -/

namespace Sys2Proof.Config

/-- `Params.legal`, clause by clause. -/
theorem Params.legal_spec {p : Params} (h : p.legal = true) :
    p.regWidth = 16 ∧ 2 ^ p.paragraphSize.log2 = p.paragraphSize ∧ p.paragraphSize ≤ 0x10000 ∧ p.memorySize = 2 ^ p.addressWidth ∧
      p.memorySize ≤ 0x10000 * p.paragraphSize ∧ p.arenaSize ≤ 0x10000 ∧ p.arenaEnd ≤ p.memorySize ∧
      p.arenaSize % p.paragraphSize = 0 ∧ p.stackSize % p.paragraphSize = 0 ∧ p.sharedSize % p.paragraphSize = 0 ∧
      0 < p.stackSize ∧ p.stackSize < 0x10000 ∧ p.permRead ≠ 0 ∧ p.permWrite ≠ 0 ∧ p.permExec ≠ 0 ∧
      p.permRead &&& p.permWrite = 0 ∧ p.permRead &&& p.permExec = 0 ∧ p.permWrite &&& p.permExec = 0 ∧
      0 < p.decelerationRounds ∧ 16 ≤ p.maxSpeed := by
  simpa only [Params.legal, Bool.and_eq_true, decide_eq_true_eq, bne_iff_ne, beq_iff_eq, and_assoc] using h

/-- A legal address space is not empty. -/
theorem Params.memorySize_pos {p : Params} (h : p.legal = true) : 0 < p.memorySize := by
  rw [(legal_spec h).2.2.2.1]; exact Nat.two_pow_pos _

/-- A legal paragraph is not empty. -/
theorem Params.paragraphSize_pos {p : Params} (h : p.legal = true) : 0 < p.paragraphSize := by
  rw [← (legal_spec h).2.1]; exact Nat.two_pow_pos _

/-- The values of R9 are legal. -/
theorem hardware_legal : hardware.legal = true := by decide

end Sys2Proof.Config
end

