-- ==== Sys2Proof/Laws/Memory.lean ====
section
/-! SUPPORT. Memory: what a byte reads after a write, and that writes keep the canonical form. -/

namespace Sys2Proof.Machine

open Sys2Proof.Config (Params)

/-! ### Read after write -/

theorem lookupCell_filter (cells : List Host.Cell) (L K : Nat) :
    lookupCell (cells.filter fun c => c.1 != L) K = if K = L then none else lookupCell cells K := by
  induction cells with
  | nil => simp [lookupCell]
  | cons c rest ih =>
    by_cases hc : c.1 = L
    · have : (c :: rest).filter (fun c => c.1 != L) = rest.filter fun c => c.1 != L := by simp [hc]
      rw [this, ih]
      split
      · rfl
      · rename_i hK
        have : c.1 ≠ K := fun e => hK (e.symm.trans hc)
        simp [lookupCell, this]
    · have : (c :: rest).filter (fun c => c.1 != L) = c :: rest.filter fun c => c.1 != L := by simp [hc]
      rw [this, lookupCell, ih, lookupCell]
      by_cases hK : K = L
      · subst hK; simp [hc]
      · simp [hK]

theorem lookupCell_insertCell {cells : List Host.Cell} {L : Nat} (v : Byte) (h : lookupCell cells L = none) (K : Nat) :
    lookupCell (insertCell (L, v) cells) K = if K = L then some v else lookupCell cells K := by
  induction cells with
  | nil => simp [insertCell, lookupCell, eq_comm]
  | cons d rest ih =>
    have hd : d.1 ≠ L := by
      intro e
      simp [lookupCell, e] at h
    have hr : lookupCell rest L = none := by simpa [lookupCell, hd] using h
    rw [insertCell]
    split
    · rw [lookupCell]
      by_cases hK : L = K
      · simp [hK]
      · simp [hK, Ne.symm hK]
    · rw [lookupCell, ih hr, lookupCell]
      by_cases hdK : d.1 = K
      · have : K ≠ L := fun e => hd (hdK.trans e)
        simp [hdK, this]
      · simp [hdK]

/-- Reading after a write: the byte written at its address, every other byte as before. -/
theorem read_write (p : Params) (m : Memory) (L K : Nat) (v : Byte) :
    (m.write p L v).read p K = if K = L then v else m.read p K := by
  unfold Memory.read Memory.write
  have hf := lookupCell_filter m.cells L
  by_cases hv : v = fillAt p L
  · simp only [hv, if_true, hf]
    split
    · rename_i hK
      simp [hK]
    · rfl
  · simp only [hv, if_false]
    rw [lookupCell_insertCell v (by rw [hf]; simp), hf]
    split <;> simp

@[simp] theorem read_write_same (p : Params) (m : Memory) (L : Nat) (v : Byte) :
    (m.write p L v).read p L = v := by
  rw [read_write, if_pos rfl]

theorem read_write_other {p : Params} {m : Memory} {L K : Nat} {v : Byte} (h : K ≠ L) :
    (m.write p L v).read p K = m.read p K := by
  rw [read_write, if_neg h]

/-! ### The canonical form -/

theorem risingCells_cons {c : Host.Cell} {cells : List Host.Cell} :
    risingCells (c :: cells) = true ↔ (∀ d ∈ cells, c.1 < d.1) ∧ risingCells cells = true := by
  induction cells generalizing c with
  | nil => simp [risingCells]
  | cons d rest ih =>
    rw [risingCells, Bool.and_eq_true, decide_eq_true_eq, ih]
    constructor
    · rintro ⟨hcd, hd, hr⟩
      refine ⟨?_, hd, hr⟩
      intro e he
      rcases List.mem_cons.mp he with rfl | he
      · exact hcd
      · exact Nat.lt_trans hcd (hd e he)
    · rintro ⟨hc, hd, hr⟩
      exact ⟨hc d (List.mem_cons_self ..), hd, hr⟩

theorem risingCells_filter {cells : List Host.Cell} (p : Host.Cell → Bool) (h : risingCells cells = true) :
    risingCells (cells.filter p) = true := by
  induction cells with
  | nil => simp [risingCells]
  | cons c rest ih =>
    rw [risingCells_cons] at h
    rw [List.filter_cons]
    split
    · rw [risingCells_cons]
      exact ⟨fun d hd => h.1 d (List.mem_filter.mp hd).1, ih h.2⟩
    · exact ih h.2

theorem mem_insertCell {c d : Host.Cell} {cells : List Host.Cell} :
    d ∈ insertCell c cells ↔ d = c ∨ d ∈ cells := by
  induction cells with
  | nil => simp [insertCell]
  | cons e rest ih =>
    rw [insertCell]
    split
    · simp
    · simp only [List.mem_cons, ih]
      tauto

theorem risingCells_insertCell {c : Host.Cell} {cells : List Host.Cell} (h : risingCells cells = true)
    (hn : ∀ d ∈ cells, d.1 ≠ c.1) : risingCells (insertCell c cells) = true := by
  induction cells with
  | nil => simp [insertCell, risingCells]
  | cons d rest ih =>
    rw [risingCells_cons] at h
    rw [insertCell]
    split
    · rename_i hcd
      rw [risingCells_cons, risingCells_cons]
      refine ⟨?_, h⟩
      intro e he
      rcases List.mem_cons.mp he with rfl | he
      · exact hcd
      · exact Nat.lt_trans hcd (h.1 e he)
    · rename_i hcd
      rw [risingCells_cons]
      refine ⟨?_, ih h.2 fun e he => hn e (List.mem_cons_of_mem _ he)⟩
      intro e he
      rcases mem_insertCell.mp he with rfl | he
      · have := hn d (List.mem_cons_self ..)
        omega
      · exact h.1 e he

/-- Every write inside the address space keeps the canonical form. -/
theorem write_wf {p : Params} {m : Memory} {L : Nat} (v : Byte) (h : m.wf p = true) (hL : L < p.memorySize) :
    (m.write p L v).wf p = true := by
  unfold Memory.wf at h ⊢
  rw [Bool.and_eq_true, List.all_eq_true] at h
  obtain ⟨hr, ha⟩ := h
  have hr' := risingCells_filter (fun c => c.1 != L) hr
  have ha' : ∀ c ∈ m.cells.filter (fun c => c.1 != L),
      (decide (c.1 < p.memorySize) && c.2 != fillAt p c.1) = true :=
    fun c hc => ha c (List.mem_filter.mp hc).1
  unfold Memory.write
  rw [Bool.and_eq_true, List.all_eq_true]
  split
  · exact ⟨hr', ha'⟩
  · rename_i hv
    refine ⟨risingCells_insertCell hr' ?_, ?_⟩
    · intro d hd
      simpa using (List.mem_filter.mp hd).2
    · intro d hd
      rcases mem_insertCell.mp hd with rfl | hd
      · rw [Bool.and_eq_true, decide_eq_true_eq, bne_iff_ne]
        exact ⟨hL, hv⟩
      · exact ha' d hd

theorem writeBytes_wf {p : Params} {m : Memory} (bs : List Byte) {L : Nat} (h : m.wf p = true)
    (hL : L + bs.length ≤ p.memorySize) : (m.writeBytes p L bs).wf p = true := by
  induction bs generalizing m L with
  | nil => exact h
  | cons b rest ih =>
    rw [List.length_cons] at hL
    rw [Memory.writeBytes]
    exact ih (write_wf b h (by omega)) (by omega)

theorem lin_lt {p : Params} (hp : p.legal = true) (a : Addr) : lin p a < p.memorySize :=
  Nat.mod_lt _ (Params.memorySize_pos hp)

theorem placeBytes_wf {p : Params} (hp : p.legal = true) {m : Memory} (seg : Word) (bs : List Byte) {off : Word} (h : m.wf p = true) :
    (placeBytes p m seg off bs).wf p = true := by
  induction bs generalizing m off with
  | nil => exact h
  | cons b rest ih =>
    rw [placeBytes]
    exact ih (write_wf b h (lin_lt hp _))

/-- The memory of `State.reset` lists nothing. -/
theorem reset_memory_wf : State.reset.mem.wf State.reset.params = true := by decide

end Sys2Proof.Machine
end

