-- ==== Sys2Proof/Laws/Registers.lean ====
section
/-! SUPPORT. Register banks: a register other than the one written reads as before; and how a frame over the
parts of an instruction becomes one over `exec`. -/

namespace Sys2Proof.Machine

/-- What every part of an instruction keeps of the running warrior, the instruction keeps,
    its death or not. -/
theorem exec_next_hart {β} {f : Hart → β} {i s t h g} (F :
    Allows (fun c d => f d.hart = f c.hart) i) (hw : i.wf = true)
    (ha : ∀ (x : Hart), f { x with alive := false } = f x)
    (hr : s.Running h) (hp : exec i s = .next t) (hg : t.Running g) : f g = f h := by
  obtain ⟨m, hm, hs⟩ := exec_stays F hw
  rw [hm] at hp
  obtain ⟨h', hr', H⟩ := perform_next hp
  have e : h' = h := Option.some.inj (hr'.symm.trans hr)
  subst e
  have hl : s.turn < s.harts.length := (List.getElem?_eq_some_iff.mp hr').1
  have hk := hs (s.cpu h')
  rcases H with ⟨c, hc, rfl⟩ | ⟨e, c, hc, rfl⟩
  · rw [hc] at hk
    have : g = c.hart := by
      have : (s.harts.set s.turn c.hart)[s.turn]? = some g := hg
      rw [List.getElem?_set_self hl] at this; exact (Option.some.inj this).symm
    rw [this]; exact hk
  · rw [hc] at hk
    have : g = { c.hart with alive := false } := by
      have : ((s.harts.set s.turn c.hart).modify s.turn fun h => { h with alive := false })[s.turn]? = some g := hg
      simp [hl] at this; exact this.symm
    rw [this, ha]; exact hk

/-- Another word register reads as before. -/
theorem get16_set16_ne (x : Hart) {r q : Reg16} (h : r ≠ q) (v) : (x.set16 r v).get16 q = x.get16 q := by
  cases r <;> cases q <;> first | rfl | exact absurd rfl h

/-- Writing a byte register leaves the word registers it is no part of. -/
theorem get16_set8_ne (x : Hart) {r : Reg8} {q : Reg16} (h : r.wide ≠ q) (v) :
    (x.set8 r v).get16 q = x.get16 q := by
  cases r <;> cases q <;> first | rfl | exact absurd rfl h

/-- Writing a segment register leaves the word registers. -/
theorem get16_setSreg (x : Hart) (r) (q : Reg16) (v) : (x.setSreg r v).get16 q = x.get16 q := by
  cases r <;> cases q <;> rfl

/-- The low byte of two joined. -/
theorem lowByte_joinBytes (a b : Byte) : lowByte (joinBytes a b) = b := by
  simp only [lowByte, joinBytes]; apply BitVec.eq_of_getLsbD_eq; intro i hi
  rw [BitVec.getLsbD_extractLsb', BitVec.getLsbD_append]; simp [hi]

/-- The high byte of two joined. -/
theorem highByte_joinBytes (a b : Byte) : highByte (joinBytes a b) = a := by
  simp only [highByte, joinBytes]; apply BitVec.eq_of_getLsbD_eq; intro i hi
  rw [BitVec.getLsbD_extractLsb', BitVec.getLsbD_append]; simp [hi]

/-- Another byte register reads as before. -/
theorem get8_set8_ne (x : Hart) {r q : Reg8} (h : r ≠ q) (v) : (x.set8 r v).get8 q = x.get8 q := by
  cases r <;> cases q <;> first | exact absurd rfl h | rfl | exact lowByte_joinBytes _ _ | exact highByte_joinBytes _ _

/-- A byte register is read from its word register. -/
theorem get8_congr (x y : Hart) (q : Reg8) (h : x.get16 q.wide = y.get16 q.wide) : x.get8 q = y.get8 q := by
  cases q <;> (simp only [Hart.get8]; exact congrArg _ h)

/-- Another segment register reads as before. -/
theorem getSreg_setSreg_ne (x : Hart) {r q : Sreg} (h : r ≠ q) (v) :
    (x.setSreg r v).getSreg q = x.getSreg q := by
  cases r <;> cases q <;> first | rfl | exact absurd rfl h

end Sys2Proof.Machine
end

