-- ==== Sys2Proof/Laws/Faults.lean ====
section
/-! SUPPORT. What the access primitives, a push, a pop and one string element do where they may raise a fault: each
answers what the fault functions of Safety.lean say, or completes. -/

namespace Sys2Proof.Machine

/-! ### The access primitives -/

theorem readFault_one (c : Cpu) (a : Addr) :
    c.readFault 1 a =
      if allowed c.params c.hart.perm (lin c.params a) .read then none
      else some (.memoryFault .read (lin c.params a)) := by
  simp only [Cpu.readFault, addOffset, List.range_one, List.map_cons, List.map_nil, List.findSome?_cons,
    BitVec.add_zero]
  cases allowed c.params c.hart.perm (lin c.params a) .read <;> rfl

theorem readFault_two (c : Cpu) (a : Addr) :
    c.readFault 2 a = (c.readFault 1 a).or (c.readFault 1 (addOffset a 1)) := by
  rw [readFault_one, readFault_one]
  have e : List.range 2 = [0, 1] := rfl
  have e0 : addOffset a (BitVec.ofNat 16 0) = a := by simp [addOffset]
  have e1 : addOffset a (BitVec.ofNat 16 1) = addOffset a 1 := rfl
  simp only [Cpu.readFault, e, List.map_cons, List.map_nil, List.findSome?_cons, e0, e1]
  cases allowed c.params c.hart.perm (lin c.params a) .read <;>
    cases allowed c.params c.hart.perm (lin c.params (addOffset a 1)) .read <;> rfl

/-- A byte read completes or raises its fault, and changes nothing. -/
theorem memRead8_spec (a : Addr) (c : Cpu) :
    memRead8 a c = match c.readFault 1 a with
      | none => .ok (c.byteAt a) c
      | some f => .error f c := by
  rw [readFault_one]
  simp only [memRead8, readByte, Cpu.byteAt]
  split <;> rfl

/-- A word read completes or raises the fault of its first denied byte, and changes nothing. -/
theorem memRead16_spec (a : Addr) (c : Cpu) :
    memRead16 a c = match c.readFault 2 a with
      | none => .ok (c.wordAt a) c
      | some f => .error f c := by
  have h0 := memRead8_spec a c
  have h1 := memRead8_spec (addOffset a 1) c
  rw [readFault_two]
  simp only [memRead8] at h0 h1
  simp only [memRead16, exec_bind, h0]
  cases c.readFault 1 a with
  | some f => rfl
  | none =>
    simp only [h1, Option.none_or]
    cases c.readFault 1 (addOffset a 1) <;> rfl

/-- A byte write completes or raises its fault. -/
theorem memWrite8_spec (a : Addr) (v : Byte) (c : Cpu) :
    memWrite8 a v c = match c.writeFault a [v] with
      | none => .ok () (c.store8 a v)
      | some p => .error p.1 p.2 := by
  simp only [memWrite8, writeByte, Cpu.writeFault]
  split <;> rfl

/-- A word write completes or raises the fault of its first denied byte, the byte before it stored. -/
theorem memWrite16_spec (a : Addr) (v : Word) (c : Cpu) :
    memWrite16 a v c = match c.writeFault a [lowByte v, highByte v] with
      | none => .ok () (c.store16 a v)
      | some p => .error p.1 p.2 := by
  have h0 := memWrite8_spec a (lowByte v) c
  have h1 := memWrite8_spec (addOffset a 1) (highByte v) (c.store8 a (lowByte v))
  simp only [memWrite8, Cpu.writeFault] at h0 h1
  simp only [memWrite16, exec_bind, h0, Cpu.writeFault]
  cases allowed c.params c.hart.perm (lin c.params a) .write with
  | false => rfl
  | true =>
    simp only [if_true, h1]
    cases allowed (c.store8 a (lowByte v)).params (c.store8 a (lowByte v)).hart.perm
      (lin (c.store8 a (lowByte v)).params (addOffset a 1)) .write <;> rfl

/-! ### Push and pop -/

/-- A push completes or raises its fault, SP moved. -/
theorem push16_spec (v : Word) (c : Cpu) :
    push16 v c = match c.pushFault v with
      | none => .ok () (c.push v)
      | some p => .error p.1 p.2 := by
  simp only [push16, exec_bind, modHart_apply, getHart_apply]
  exact memWrite16_spec _ v (c.setHart { c.hart with SP := c.hart.SP - 2 })

/-- A pop completes or raises its fault, SP not moved. -/
theorem pop16_spec (c : Cpu) :
    pop16 c = match c.popFault with
      | none => .ok (c.stackWord 0) (c.setHart { c.hart with SP := c.hart.SP + 2 })
      | some f => .error f c := by
  have h0 : c.hart.popSlot 0 = ⟨c.hart.SS, c.hart.SP⟩ := by simp [Hart.popSlot]
  simp only [pop16, exec_bind, getHart_apply, memRead16_spec, Cpu.popFault, Cpu.stackWord, h0]
  cases c.readFault 2 ⟨c.hart.SS, c.hart.SP⟩ <;> rfl

theorem push16_fault {c e : Cpu} {v : Word} {f : HartFault} (h : c.pushFault v = some (f, e)) :
    push16 v c = .error f e := by
  rw [push16_spec, h]

theorem pop16_fault {c : Cpu} {f : HartFault} (h : c.popFault = some f) : pop16 c = .error f c := by
  rw [pop16_spec, h]

/-! ### One string element -/

/-- One element of a string operation, at either width. -/
def elementBody (op : StringOp) (n : Nat) : Exec Unit :=
  match op with
  | .movs => if n = 1 then movs byteElement else movs wordElement
  | .cmps => if n = 1 then cmps byteElement else cmps wordElement
  | .stos => if n = 1 then stos byteElement else stos wordElement
  | .lods => if n = 1 then lods byteElement else lods wordElement
  | .scas => if n = 1 then scas byteElement else scas wordElement

/-- What one element leaves. -/
def elementLeaves (op : StringOp) (n : Nat) (c : Cpu) : Cpu :=
  match op with
  | .movs => if n = 1 then c.movsb else c.movsw
  | .cmps => if n = 1 then c.cmpsb else c.cmpsw
  | .stos => if n = 1 then c.stosb else c.stosw
  | .lods => if n = 1 then c.lodsb else c.lodsw
  | .scas => if n = 1 then c.scasb else c.scasw

theorem range_bytes_one (c : Cpu) (a : Addr) :
    ((List.range 1).map fun k => c.byteAt (addOffset a (BitVec.ofNat 16 k))) = [c.byteAt a] := by
  simp [addOffset]

theorem range_bytes_two (c : Cpu) (a : Addr) :
    ((List.range 2).map fun k => c.byteAt (addOffset a (BitVec.ofNat 16 k))) =
      [lowByte (c.wordAt a), highByte (c.wordAt a)] := by
  have r2 : List.range 2 = [0, 1] := rfl
  simp [r2, addOffset, Cpu.wordAt, lowByte_joinBytes, highByte_joinBytes]

/-- One element completes or raises its fault. -/
theorem element_spec (op : StringOp) (n : Nat) (hn : n = 1 ∨ n = 2) (c : Cpu) :
    elementBody op n c = match c.elementFault op n with
      | none => .ok () (elementLeaves op n c)
      | some p => .error p.1 p.2 := by
  have al : c.hart.get8 .AL = lowByte c.hart.AX := rfl
  rcases hn with rfl | rfl <;> cases op <;>
    simp only [elementBody, elementLeaves, Cpu.elementFault, if_true, OfNat.ofNat_ne_one, if_false, movs, cmps, stos,
      lods, scas, byteElement, wordElement, exec_bind, getHart_apply, memRead8_spec, memRead16_spec, memWrite8_spec,
      memWrite16_spec, range_bytes_one, range_bytes_two, advanceSi, advanceDi, modHart_apply, modFlags_apply,
      List.take_succ_cons, List.take_zero, al]
  · cases c.readFault 1 ⟨c.hart.DS, c.hart.SI⟩ <;> dsimp only [Option.map_none, Option.or_none, Option.none_or]
    · cases c.writeFault ⟨c.hart.ES, c.hart.DI⟩ [c.byteAt ⟨c.hart.DS, c.hart.SI⟩] <;> rfl
    · rfl
  · cases c.readFault 1 ⟨c.hart.DS, c.hart.SI⟩ <;> dsimp only [Option.none_or]
    · cases c.readFault 1 ⟨c.hart.ES, c.hart.DI⟩ <;> rfl
    · rfl
  · cases c.writeFault ⟨c.hart.ES, c.hart.DI⟩ [lowByte c.hart.AX] <;> rfl
  · cases c.readFault 1 ⟨c.hart.DS, c.hart.SI⟩ <;> rfl
  · cases c.readFault 1 ⟨c.hart.ES, c.hart.DI⟩ <;> rfl
  · cases c.readFault 2 ⟨c.hart.DS, c.hart.SI⟩ <;> dsimp only [Option.map_none, Option.or_none, Option.none_or]
    · cases c.writeFault ⟨c.hart.ES, c.hart.DI⟩ [lowByte (c.wordAt ⟨c.hart.DS, c.hart.SI⟩),
        highByte (c.wordAt ⟨c.hart.DS, c.hart.SI⟩)] <;> rfl
    · rfl
  · cases c.readFault 2 ⟨c.hart.DS, c.hart.SI⟩ <;> dsimp only [Option.none_or]
    · cases c.readFault 2 ⟨c.hart.ES, c.hart.DI⟩ <;> rfl
    · rfl
  · cases c.writeFault ⟨c.hart.ES, c.hart.DI⟩ [lowByte c.hart.AX, highByte c.hart.AX] <;> rfl
  · cases c.readFault 2 ⟨c.hart.DS, c.hart.SI⟩ <;> rfl
  · cases c.readFault 2 ⟨c.hart.ES, c.hart.DI⟩ <;> rfl

/-- A repeat that faults in element `k + 1`: the first `k` elements completed and did not stop it. -/
theorem repeatLoop_fault {body : Exec Unit} {one : Cpu → Cpu} {stop : Flags → Bool} {f : HartFault} {e : Cpu} :
    ∀ (k m : Nat) (c : Cpu), k < m →
      (∀ j, j < k →
        body (Cpu.repeated one neverStop j c) = .ok () (one (Cpu.repeated one neverStop j c)) ∧
        stop (Cpu.repeated one neverStop (j + 1) c).hart.flags = false) →
      body (Cpu.repeated one neverStop k c) = .error f e → repeatLoop body stop m c = .error f e := by
  intro k
  induction k with
  | zero =>
    intro m c hm _ hb
    obtain ⟨m, rfl⟩ : ∃ q, m = q + 1 := ⟨m - 1, by omega⟩
    exact exec_bind_error hb
  | succ k ih =>
    intro m c hm hj hb
    obtain ⟨m, rfl⟩ : ∃ q, m = q + 1 := ⟨m - 1, by omega⟩
    have h0 := hj 0 (by omega)
    refine Eq.trans (exec_bind_ok h0.1) ?_
    refine Eq.trans (exec_bind_ok (modHart_apply _ _)) ?_
    refine Eq.trans (exec_bind_ok (getHart_apply _)) ?_
    have hs : stop ((one c).setHart { (one c).hart with CX := (one c).hart.CX - 1 }).hart.flags = false := h0.2
    refine Eq.trans (congrFun (if_neg fun ht => Bool.noConfusion (hs.symm.trans ht)) _) ?_
    exact ih m _ (by omega) (fun j hjk => hj (j + 1) (by omega)) hb

end Sys2Proof.Machine
end

