-- ==== Sys2Proof/Laws/Reset.lean ====
section
/-! SUPPORT. Where reset places stacks and shared areas, and what memory holds after a run of bytes is written. -/

namespace Sys2Proof.Machine

open Sys2Proof.Config (Params)

/-- The members of a group follow one another, one private stack each. -/
theorem allocMembers_spec (p : Params) (g sh : Nat) : ∀ (ws : List WarriorConfig) (free : Nat),
   (allocMembers p g sh free ws).2 = free + ws.length * p.stackSize ∧
    (allocMembers p g sh free ws).1.length = ws.length ∧
   ∀ (k : Nat) (w : WarriorConfig), ws[k]? = some w →
    (allocMembers p g sh free ws).1[k]? = some ⟨w.name, w.image.length, BitVec.ofNat 16 w.loadOffset, g,
    free + k * p.stackSize, sh⟩ := by
  intro ws
  induction ws with
  | nil => intro free; simp [allocMembers]
  | cons w ws ih =>
    intro free
    obtain ⟨a, b, c⟩ := ih (free + p.stackSize)
    refine ⟨?_, ?_, fun k v hv => ?_⟩
    · simp only [allocMembers, a, List.length_cons, Nat.succ_mul]; omega
    · simp only [allocMembers, List.length_cons, b]
    · cases k with
      | zero => simp only [List.getElem?_cons_zero, Option.some.injEq] at hv; subst hv; simp [allocMembers]
      | succ k =>
        simp only [List.getElem?_cons_succ] at hv
        simp only [allocMembers, List.getElem?_cons_succ, c k v hv, Nat.succ_mul]
        congr 2; omega

/-- The groups follow one another: a shared area, then the members' stacks. Warrior `k` is a member of the group its
record names. -/
theorem allocGroups_spec (p : Params) : ∀ (gs : List (List WarriorConfig)) (g0 free : Nat),
   (allocGroups p g0 free gs).2 = free + gs.length * p.sharedSize + gs.flatten.length * p.stackSize ∧
    (allocGroups p g0 free gs).1.length = gs.flatten.length ∧
   ∀ (k : Nat) (w : WarriorConfig), gs.flatten[k]? = some w →
    ∃ j ws, (allocGroups p g0 free gs).1[k]? = some ⟨w.name, w.image.length, BitVec.ofNat 16 w.loadOffset, g0 + j,
      free + (j+1) * p.sharedSize + k * p.stackSize,
      free + j * p.sharedSize + ((gs.take j).map List.length).sum * p.stackSize⟩ ∧
      gs[j]? = some ws ∧ ((gs.take j).map List.length).sum ≤ k ∧
      k < ((gs.take j).map List.length).sum + ws.length := by
  intro gs
  induction gs with
  | nil => intro g0 free; simp [allocGroups]
  | cons ws gs ih =>
    intro g0 free
    obtain ⟨a, b, c⟩ := allocMembers_spec p g0 free ws (free + p.sharedSize)
    obtain ⟨d, e, f⟩ := ih (g0+1) (allocMembers p g0 free (free + p.sharedSize) ws).2
    refine ⟨?_, ?_, fun k v hv => ?_⟩
    · rw [a] at d; simp only [allocGroups, a, List.length_cons, List.flatten_cons, List.length_append]
      rw [d, Nat.succ_mul, Nat.add_mul]; omega
    · simp only [allocGroups, List.flatten_cons, List.length_append, b, e]
    · simp only [List.flatten_cons] at hv
      simp only [allocGroups]
      by_cases hk : k < ws.length
      · rw [List.getElem?_append_left hk] at hv
        refine ⟨0, ws, ?_, rfl, by simp, by simpa using hk⟩
        rw [List.getElem?_append_left (by rw [b]; exact hk), c k v hv]
        simp
      · rw [List.getElem?_append_right (by omega)] at hv
        obtain ⟨j, vs, h1, h2, h3, h4⟩ := f _ v hv
        refine ⟨j+1, vs, ?_, by simpa using h2, ?_, ?_⟩
        · rw [List.getElem?_append_right (by rw [b]; omega), b, h1, a]
          simp only [List.take_succ_cons, List.map_cons, List.sum_cons, Option.some.injEq,
                     WarriorInfo.mk.injEq, true_and]
          have hk2 : k * p.stackSize = (k - ws.length) * p.stackSize + ws.length * p.stackSize := by
            rw [← Nat.add_mul]; congr 1; omega
          refine ⟨by omega, ?_, ?_⟩
          · rw [hk2]; simp only [Nat.succ_mul]; omega
          · simp only [Nat.add_mul, Nat.one_mul]; omega
        · simp only [List.take_succ_cons, List.map_cons, List.sum_cons]; omega
        · simp only [List.take_succ_cons, List.map_cons, List.sum_cons]; omega

/-- The check over every pair says that all images lie apart. -/
theorem everyPair_apart (p : Params) (l : List WarriorConfig) :
    everyPair (WarriorConfig.apart p) l = true ↔ l.Pairwise
    (fun v w => v.loadOffset + v.image.length + p.minGap ≤ w.loadOffset ∨
        w.loadOffset + w.image.length + p.minGap ≤ v.loadOffset) := by
  induction l with
  | nil => simp [everyPair]
  | cons a l ih => simp only [everyPair, Bool.and_eq_true, List.all_eq_true, ih, List.pairwise_cons,
                              WarriorConfig.apart, Bool.or_eq_true, decide_eq_true_eq]

/-- Reading after writing a run of bytes. -/
theorem read_writeBytes : ∀ (p : Params) (bs : List Byte) (m : Memory) (L K :
    Nat), (m.writeBytes p L bs).read p K = if L ≤ K then (bs[K-L]?).getD (m.read p K) else m.read p K := by
  intro p bs
  induction bs with
  | nil => intro m L K; simp [Memory.writeBytes]
  | cons b bs ih =>
    intro m L K
    rw [Memory.writeBytes, ih, read_write]
    by_cases h1 : L + 1 ≤ K
    · rw [if_pos h1, if_pos (show L ≤ K by omega), if_neg (show ¬ K = L by omega),
          show K - L = (K - (L+1)) + 1 by omega, List.getElem?_cons_succ]
    · rw [if_neg h1]
      by_cases h2 : L ≤ K
      · have : K = L := by omega
        subst this; simp
      · rw [if_neg h2, if_neg (by omega)]

end Sys2Proof.Machine
end

