-- ==== Sys2Proof/Laws/Shift.lean ====
section
/-! SUPPORT. One step of each shift and rotate as an operation on bit vectors, and how rotations add up. -/

namespace Sys2Proof.Machine

/-- The widths that rotate: a byte or a word, alone or with the carry flag on top. -/
def RotWidth (w : Nat) : Prop := w = 8 ∨ w = 9 ∨ w = 16 ∨ w = 17

/-- Bit `i` of a left rotation, without a case split. -/
theorem getLsbD_rotateLeft_mod {w} (hw : RotWidth w) (x : BitVec w) (k i : Nat) (hi : i < w) :
    (x.rotateLeft k).getLsbD i = x.getLsbD ((i + w - k % w) % w) := by
  rw [BitVec.getLsbD_rotateLeft]
  have hk : k % w < w := Nat.mod_lt _ (by omega)
  generalize k % w = j at *
  by_cases h : i < j
  · simp only [h, decide_true, cond_true]
    rw [Nat.mod_eq_of_lt (show i + w - j < w by omega)]
    congr 1; omega
  · simp only [h, decide_false, cond_false, hi, decide_true, Bool.true_and]
    have e : i + w - j = (i - j) + w := by omega
    rw [e, Nat.add_mod_right, Nat.mod_eq_of_lt (show i - j < w by omega)]

/-- Bit `i` of a right rotation, without a case split. -/
theorem getLsbD_rotateRight_mod {w} (hw : RotWidth w) (x : BitVec w) (k i : Nat) (hi : i < w) :
    (x.rotateRight k).getLsbD i = x.getLsbD ((i + k % w) % w) := by
  rw [BitVec.getLsbD_rotateRight]
  have hk : k % w < w := Nat.mod_lt _ (by omega)
  generalize k % w = j at *
  by_cases h : i < w - j
  · simp only [h, decide_true, cond_true]
    rw [Nat.mod_eq_of_lt (show i + j < w by omega)]
    congr 1; omega
  · simp only [h, decide_false, cond_false, hi, decide_true, Bool.true_and]
    have e : i + j = (i - (w - j)) + w := by omega
    rw [e, Nat.add_mod_right, Nat.mod_eq_of_lt (show i - (w - j) < w by omega)]

/-- One left rotation more. -/
theorem rotateLeft_one_rotateLeft {w} (hw : RotWidth w) (x : BitVec w) (k : Nat) :
    (x.rotateLeft 1).rotateLeft k = x.rotateLeft (k+1) := by
  apply BitVec.eq_of_getLsbD_eq
  intro i hi
  rw [getLsbD_rotateLeft_mod hw _ _ _ hi, getLsbD_rotateLeft_mod hw _ _ _ hi,
      getLsbD_rotateLeft_mod hw _ _ _ (Nat.mod_lt _ (by omega))]
  congr 1
  rcases hw with rfl | rfl | rfl | rfl <;> omega

/-- One right rotation more. -/
theorem rotateRight_one_rotateRight {w} (hw : RotWidth w) (x : BitVec w) (k : Nat) :
    (x.rotateRight 1).rotateRight k = x.rotateRight (k+1) := by
  apply BitVec.eq_of_getLsbD_eq
  intro i hi
  rw [getLsbD_rotateRight_mod hw _ _ _ hi, getLsbD_rotateRight_mod hw _ _ _ hi,
      getLsbD_rotateRight_mod hw _ _ _ (Nat.mod_lt _ (by omega))]
  congr 1
  rcases hw with rfl | rfl | rfl | rfl <;> omega

/-- A flag placed in bit 0. -/
theorem getLsbD_ofBool_low {n} (b : Bool) (i : Nat) (hn : 0 < n) :
    (BitVec.ofNat n b.toNat).getLsbD i = (decide (i = 0) && b) := by
  cases b
  · simp
  · simp; cases i <;> simp [hn]

/-- A flag placed in the top bit. -/
theorem getLsbD_ofBool_top {n} (b : Bool) (i : Nat) (hn : 0 < n) (hi : i < n) :
    (BitVec.ofNat n b.toNat <<< (n-1)).getLsbD i = (decide (i = n - 1) && b) := by
  rw [BitVec.getLsbD_shiftLeft, getLsbD_ofBool_low _ _ hn]
  by_cases h : i = n-1
  · subst h; simp [hn]
  · have : i < n-1 := by omega
    simp [this, h]

/-- The top bit by its number. -/
theorem msb_eq_getLsbD {n} (v : BitVec n) : v.msb = v.getLsbD (n-1) := BitVec.msb_eq_getLsbD_last v

/-- One step of ROL is a rotation by one. -/
theorem shiftStep_rol {n} (hn : n = 8 ∨ n = 16) (v : BitVec n) (cf) :
    (shiftStep .rol v cf) = (v.rotateLeft 1, (v.rotateLeft 1).getLsbD 0) := by
  have hw : RotWidth n := by rcases hn with rfl | rfl <;> simp [RotWidth]
  simp only [shiftStep, Prod.mk.injEq]
  constructor
  · apply BitVec.eq_of_getLsbD_eq
    intro i hi
    rw [BitVec.getLsbD_or, getLsbD_ofBool_low _ _ (by omega), getLsbD_rotateLeft_mod hw _ _ _ hi,
        BitVec.getLsbD_shiftLeft, msb_eq_getLsbD]
    have h1 : 1 % n = 1 := Nat.mod_eq_of_lt (by omega)
    rw [h1]
    by_cases h0 : i = 0
    · subst h0
      simp; skip
    · have : (i + n - 1) % n = i - 1 := by
        have : i + n - 1 = (i - 1) + n := by omega
        rw [this, Nat.add_mod_right, Nat.mod_eq_of_lt (by omega)]
      rw [this]; simp [h0, hi]
  · rw [getLsbD_rotateLeft_mod hw _ _ _ (by omega), msb_eq_getLsbD]; congr 1
    have h1 : 1 % n = 1 := Nat.mod_eq_of_lt (by omega)
    rw [h1, Nat.mod_eq_of_lt (by omega)]; omega

/-- One step of ROR is a rotation by one. -/
theorem shiftStep_ror {n} (hn : n = 8 ∨ n = 16) (v : BitVec n) (cf) :
    (shiftStep .ror v cf) = (v.rotateRight 1, (v.rotateRight 1).msb) := by
  have hw : RotWidth n := by rcases hn with rfl | rfl <;> simp [RotWidth]
  have h1 : 1 % n = 1 := Nat.mod_eq_of_lt (by omega)
  simp only [shiftStep, Prod.mk.injEq]
  constructor
  · apply BitVec.eq_of_getLsbD_eq
    intro i hi
    rw [BitVec.getLsbD_or, getLsbD_ofBool_top _ _ (by omega) hi, getLsbD_rotateRight_mod hw _ _ _ hi,
        BitVec.getLsbD_ushiftRight, h1]
    by_cases h0 : i = n - 1
    · subst h0
      have : n - 1 + 1 = n := by omega
      rw [this, Nat.mod_self, show 1 + (n-1) = n by omega, BitVec.getLsbD_of_ge _ _ (Nat.le_refl n)]; simp
    · rw [Nat.mod_eq_of_lt (by omega)]; simp [h0, Nat.add_comm]
  · rw [msb_eq_getLsbD, getLsbD_rotateRight_mod hw _ _ _ (by omega), h1, show n - 1 + 1 = n by omega,
        Nat.mod_self]

/-- One step of SAR is an arithmetic shift by one. -/
theorem shiftStep_sar {n} (hn : n = 8 ∨ n = 16) (v : BitVec n) (cf) :
    (shiftStep .sar v cf) = (v.sshiftRight 1, v.getLsbD 0) := by
  simp only [shiftStep, Prod.mk.injEq, and_true]
  apply BitVec.eq_of_getLsbD_eq
  intro i hi
  rw [BitVec.getLsbD_or, getLsbD_ofBool_top _ _ (by omega) hi, BitVec.getLsbD_ushiftRight,
      BitVec.getLsbD_sshiftRight]
  have : ¬ n ≤ i := by omega
  simp only [this, decide_false, Bool.not_false, Bool.true_and]
  by_cases h0 : i = n - 1
  · subst h0
    rw [if_neg (by omega), BitVec.getLsbD_of_ge _ _ (by omega)]; simp
  · rw [if_pos (by omega)]; simp [h0]

/-- One step of RCL rotates carry and value together. -/
theorem shiftStep_rcl {n} (hn : n = 8 ∨ n = 16) (v : BitVec n) (cf) : 
   BitVec.ofBool (shiftStep .rcl v cf).2 ++ (shiftStep .rcl v cf).1 =
    (BitVec.ofBool cf ++ v).rotateLeft 1 := by
  have hw : RotWidth (1+n) := by rcases hn with rfl | rfl <;> simp [RotWidth]
  have h1 : 1 % (1+n) = 1 := Nat.mod_eq_of_lt (by omega)
  simp only [shiftStep]
  apply BitVec.eq_of_getLsbD_eq
  intro i hi
  rw [getLsbD_rotateLeft_mod hw _ _ _ hi, h1, BitVec.getLsbD_append, BitVec.getLsbD_append]
  by_cases h0 : i = 0
  · subst h0
    have : ((0 + (1+n) - 1) % (1+n)) = n := by rw [Nat.mod_eq_of_lt (by omega)]; omega
    rw [this, BitVec.getLsbD_or, getLsbD_ofBool_low _ _ (by omega)]
    simp [show (0 < n) by omega]
  · have : ((i + (1+n) - 1) % (1+n)) = i - 1 := by
      rw [show i + (1+n) - 1 = (i - 1) + (1 + n) by omega, Nat.add_mod_right, Nat.mod_eq_of_lt (by omega)]
    rw [this, BitVec.getLsbD_or, getLsbD_ofBool_low _ _ (by omega), BitVec.getLsbD_shiftLeft]
    by_cases hl : i < n
    · simp [hl, h0, show i - 1 < n by omega]
    · have : i = n := by omega
      subst this
      simp [show i - 1 < i by omega, msb_eq_getLsbD]

/-- One step of RCR rotates carry and value together. -/
theorem shiftStep_rcr {n} (hn : n = 8 ∨ n = 16) (v : BitVec n) (cf) : 
   BitVec.ofBool (shiftStep .rcr v cf).2 ++ (shiftStep .rcr v cf).1 =
    (BitVec.ofBool cf ++ v).rotateRight 1 := by
  have hw : RotWidth (1+n) := by rcases hn with rfl | rfl <;> simp [RotWidth]
  have h1 : 1 % (1+n) = 1 := Nat.mod_eq_of_lt (by omega)
  simp only [shiftStep]
  apply BitVec.eq_of_getLsbD_eq
  intro i hi
  rw [getLsbD_rotateRight_mod hw _ _ _ hi, h1, BitVec.getLsbD_append, BitVec.getLsbD_append]
  by_cases hl : i < n
  · rw [Nat.mod_eq_of_lt (by omega), BitVec.getLsbD_or, getLsbD_ofBool_top _ _ (by omega) hl,
        BitVec.getLsbD_ushiftRight]
    by_cases h0 : i = n - 1
    · subst h0
      simp [show n - 1 + 1 = n by omega, show 1 + (n - 1) = n by omega, hl]
    · simp [hl, h0, show i + 1 < n by omega, Nat.add_comm]
  · have : i = n := by omega
    subst this
    rw [show i + 1 = 1 + i by omega, Nat.mod_self]
    simp [show (0 < i) by omega]

end Sys2Proof.Machine
end

