-- ==== Sys2Proof/Laws/Step.lean ====
section
/-! SUPPORT. A step taken apart: fetch, one instruction, the scheduler. -/

namespace Sys2Proof.Machine

/-- The step of a living warrior's turn: one instruction, then the scheduler. -/
theorem step_slot {s h} (he : s.endReason = none) (hp : s.phase ≠ .boundary) (hr : s.Running h) (ha :
    h.alive = true) :
    step s = afterAnswer (s.runInstr h) := by
  have hr' : s.harts[s.turn]? = some h := hr
  simp only [step, State.blockStep, he, hp, hr', ha, Option.isSome_none, Bool.false_eq_true, if_false,
             if_true]

/-- A fetch whose first `n` bytes are all allowed reads them and goes on after them. -/
theorem fetchBytes_append (p perm m cs) : ∀ (n : Nat) (ip : Word) (bs : List Byte) (k :
    Nat), n = bs.length → n ≤ k →
   (∀ j, j < n → allowed p perm (lin p ⟨cs, ip + BitVec.ofNat 16 j⟩) .execute = true ∧
    bs[j]? = some (m.read p (lin p ⟨cs, ip + BitVec.ofNat 16 j⟩))) →
   fetchBytes p perm m cs k ip = bs ++ fetchBytes p perm m cs (k - n) (ip + BitVec.ofNat 16 n) := by
  intro n
  induction n with
  | zero => intro ip bs k hn hk hj; have : bs = [] := List.eq_nil_of_length_eq_zero hn.symm; subst this; simp
  | succ n ih =>
    intro ip bs k hn hk hj
    obtain ⟨b, bs, rfl⟩ : ∃ b r, bs = b :: r := by cases bs with | nil => cases hn | cons b r => exact ⟨b, r, rfl⟩
    obtain ⟨k, rfl⟩ : ∃ q, k = q + 1 := ⟨k-1, by omega⟩
    have h0 := hj 0 (by omega)
    simp only [List.getElem?_cons_zero, Option.some.injEq, BitVec.ofNat_eq_ofNat, BitVec.add_zero] at h0
    rw [fetchBytes, if_pos h0.1, ← h0.2]
    have e : ∀ j, ip + BitVec.ofNat 16 (j+1) = ip + 1 + BitVec.ofNat 16 j := by
      intro j; rw [Nat.add_comm j 1, BitVec.ofNat_add, BitVec.add_assoc]; rfl
    rw [ih (ip+1) bs k (by simpa using hn) (by omega)]
    · rw [e, Nat.add_sub_add_right]; rfl
    · intro j hjn
      have := hj (j+1) (by omega)
      rw [e] at this; simpa using this

/-- Spending one of a counter that is not zero lowers it. -/
theorem bomb_sub_one_le (b : Byte) (h : b ≠ 0) : b - 1 ≤ b := by revert b; decide +kernel

/-- What every part of an instruction keeps, and the writes it records. -/
structure SlotKeeps (c d : Cpu) : Prop where
  perm : d.hart.perm = c.hart.perm
  info : d.hart.info = c.hart.info
  alive : d.hart.alive = c.hart.alive
  params : d.params = c.params
  wf : c.params.legal = true → c.mem.wf c.params = true → d.mem.wf c.params = true
  b0 : d.hart.bomb0 ≤ c.hart.bomb0
  b1 : d.hart.bomb1 ≤ c.hart.bomb1
  b2 : d.hart.bomb2 ≤ c.hart.bomb2
  ev : ∃ new, d.events = new ++ c.events ∧ (∀ L, d.mem.read c.params L ≠ c.mem.read c.params L → Event.write L ∈ new) ∧
    ∀ L, Event.write L ∈ new → allowed c.params c.hart.perm L .write = true

/-- An update of the registers alone. -/
theorem slotKeeps_setHart (c : Cpu) (g : Hart) (h1 : g.perm = c.hart.perm) (h2 :
    g.info = c.hart.info) (h3 : g.alive = c.hart.alive) (h4 : g.bomb0 ≤ c.hart.bomb0) (h5 :
    g.bomb1 ≤ c.hart.bomb1) (h6 : g.bomb2 ≤ c.hart.bomb2) : SlotKeeps c (c.setHart g) :=
  ⟨h1, h2, h3, rfl, fun _ => id, h4, h5, h6, [], rfl, fun _ h => absurd rfl h, by simp⟩

/-- Every instruction is made of parts that keep this. -/
theorem allows_slotKeeps (i : Instr) : Allows SlotKeeps i := by
  refine ⟨⟨fun c => ?_, fun {c d e} h k => ?_, fun c => ?_, ?_, ?_, ?_, ?_, ?_, ?_, ?_, ?_, ?_⟩,
    fun c a v ha => ?_⟩
  · exact slotKeeps_setHart c c.hart rfl rfl rfl (BitVec.le_refl _) (BitVec.le_refl _) (BitVec.le_refl _)
  · obtain ⟨n, e1, e2, e3⟩ := h.ev
    obtain ⟨n', f1, f2, f3⟩ := k.ev
    have hp := h.params
    have kw := k.wf
    rw [hp] at kw f2 f3
    refine ⟨k.perm.trans h.perm, k.info.trans h.info, k.alive.trans h.alive, k.params.trans hp, fun l w => kw l (h.wf l w),
      BitVec.le_trans k.b0 h.b0, BitVec.le_trans k.b1 h.b1, BitVec.le_trans k.b2 h.b2, n' ++ n, by rw [f1, e1,
      List.append_assoc], fun L hL => ?_, fun L hL => ?_⟩
    · by_cases he : e.mem.read c.params L = d.mem.read c.params L
      · exact List.mem_append_right _ (e2 L (by rwa [he] at hL))
      · exact List.mem_append_left _ (f2 L he)
    · rcases List.mem_append.mp hL with h' | h'
      · have := f3 L h'; rwa [h.perm] at this
      · exact e3 L h'
  · exact ⟨rfl, rfl, rfl, rfl, fun _ => id, BitVec.le_refl _, BitVec.le_refl _, BitVec.le_refl _, [], rfl, fun _ h => absurd rfl h, by simp⟩
  · intro q _ c v
    cases q <;> exact slotKeeps_setHart _ _ rfl rfl rfl (BitVec.le_refl _) (BitVec.le_refl _) (BitVec.le_refl _)
  · intro q _ c v
    cases q <;> exact slotKeeps_setHart _ _ rfl rfl rfl (BitVec.le_refl _) (BitVec.le_refl _) (BitVec.le_refl _)
  · intro q _ c v
    cases q <;> exact slotKeeps_setHart _ _ rfl rfl rfl (BitVec.le_refl _) (BitVec.le_refl _) (BitVec.le_refl _)
  · intro _ c v
    exact slotKeeps_setHart _ _ rfl rfl rfl (BitVec.le_refl _) (BitVec.le_refl _) (BitVec.le_refl _)
  · intro c g _
    exact slotKeeps_setHart _ _ rfl rfl rfl (BitVec.le_refl _) (BitVec.le_refl _) (BitVec.le_refl _)
  · intro _ c v
    exact slotKeeps_setHart _ _ rfl rfl rfl (BitVec.le_refl _) (BitVec.le_refl _) (BitVec.le_refl _)
  · intro _ c h
    exact slotKeeps_setHart _ _ rfl rfl rfl (bomb_sub_one_le _ h) (BitVec.le_refl _) (BitVec.le_refl _)
  · intro _ c h
    exact slotKeeps_setHart _ _ rfl rfl rfl (BitVec.le_refl _) (bomb_sub_one_le _ h) (BitVec.le_refl _)
  · intro _ c h
    exact slotKeeps_setHart _ _ rfl rfl rfl (BitVec.le_refl _) (BitVec.le_refl _) (bomb_sub_one_le _ h)
  · refine ⟨rfl, rfl, rfl, rfl, fun l w => write_wf _ w (lin_lt l _), BitVec.le_refl _, BitVec.le_refl _, BitVec.le_refl _, [.write (lin c.params a)], rfl, fun L hL => ?_, fun L hL => ?_⟩
    · rw [Cpu.store8_mem, read_write] at hL
      split at hL
      · rename_i h; subst h; simp
      · exact absurd rfl hL
    · simp at hL; subst hL; exact ha

/-- What one instruction slot leaves to the scheduler. -/
structure SlotLeaves (s u : State) (h : Hart) : Prop where
  hart : ∃ g, u.harts = s.harts.set s.turn g ∧ g.perm = h.perm ∧ g.info = h.info ∧ g.bomb0 ≤ h.bomb0 ∧
    g.bomb1 ≤ h.bomb1 ∧ g.bomb2 ≤ h.bomb2 ∧
     ((g.alive = h.alive ∧ u.aliveCount = s.aliveCount ∧ u.deathCount = s.deathCount) ∨ (g.alive = false ∧
     u.aliveCount = s.aliveCount - 1 ∧ u.deathCount = s.deathCount + 1))
  params : u.params = s.params
  wf : s.params.legal = true → s.mem.wf s.params = true → u.mem.wf s.params = true
  round : u.round = s.round
  turn : u.turn = s.turn
  phase : u.phase = s.phase
  endr : u.endReason = s.endReason
  ev : ∃ new, u.events = new ++ s.events ∧ (∀ L, u.mem.read s.params L ≠ s.mem.read s.params L → Event.write L ∈ new) ∧
    ∀ L, Event.write L ∈ new → allowed s.params h.perm L .write = true

/-- The running warrior's place in the list. -/
theorem modify_running {s : State} {h : Hart} (hr : s.Running h) (f : Hart →
    Hart) : s.harts.modify s.turn f = s.harts.set s.turn (f h) := by
  have hr' : s.harts[s.turn]? = some h := hr
  obtain ⟨hl, he⟩ := List.getElem?_eq_some_iff.mp hr'
  apply List.ext_getElem?
  intro i
  rw [List.getElem?_modify, List.getElem?_set]
  split
  · rename_i hi; subst hi; simp [hl, he]
  · simp

/-- An instruction slot always goes on, and leaves what `SlotLeaves` says. -/
theorem runInstr_leaves (hwf : ∀ bs i rest, decode bs = .ok (i, rest) →
    i.wf = true) {s h} (hr : s.Running h) : ∃ u, s.runInstr h = .next u ∧ SlotLeaves s u h := by
  have hl : s.turn < s.harts.length := (List.getElem?_eq_some_iff.mp hr).1
  have hadv : ∀ n, (s.advance n).harts = s.harts.set s.turn (h.advance n) := fun n => modify_running hr _
  unfold State.runInstr
  cases hf : fetchInstr s.params h s.mem with
  | denied n =>
    refine ⟨_, rfl, ⟨{ h.advance n with alive := false }, ?_, rfl, rfl, BitVec.le_refl _, BitVec.le_refl _, BitVec.le_refl _, .inr ⟨rfl, rfl, rfl⟩⟩, rfl, fun _ => id, rfl, rfl, rfl, rfl, [_], rfl, fun _ h => absurd rfl h, by simp⟩
    show (s.harts.modify s.turn _).modify s.turn _ = _
    have := hadv n
    simp only [State.advance_harts] at this
    rw [this]
    have hr2 : State.Running { s with harts := s.harts.set s.turn (h.advance n) } (h.advance n) := by simp [State.Running, hl]
    have := modify_running hr2 (fun h => { h with alive := false })
    simp only [List.set_set] at this
    exact this
  | instruction i n =>
    have hw : i.wf = true := by
      unfold fetchInstr at hf
      simp only at hf
      split at hf
      · rename_i hd
        have := hwf _ _ _ hd
        simp only [Fetched.instruction.injEq] at hf; rw [← hf.1]; exact this
      · cases hf
    obtain ⟨m, hm, hs⟩ := exec_stays (allows_slotKeeps i) hw
    have hra : (s.advance n).Running (h.advance n) := by
      show (s.advance n).harts[s.turn]? = _
      rw [hadv]; simp [hl]
    have hra' : (s.advance n).harts[(s.advance n).turn]? = some (h.advance n) := hra
    have hk := hs ((s.advance n).cpu (h.advance n))
    simp only [hm, perform, hra']
    cases hc : m ((s.advance n).cpu (h.advance n)) with
    | ok x c =>
      rw [hc] at hk
      refine ⟨_, rfl, ⟨c.hart, ?_, hk.perm, hk.info, hk.b0, hk.b1, hk.b2, .inl ⟨hk.alive, rfl, rfl⟩⟩, rfl, hk.wf, rfl, rfl, rfl, rfl, hk.ev⟩
      show (s.advance n).harts.set s.turn c.hart = _
      rw [hadv, List.set_set]
    | error f c =>
      rw [hc] at hk
      refine ⟨_, rfl, ⟨{ c.hart with alive := false }, ?_, hk.perm, hk.info, hk.b0, hk.b1, hk.b2, .inr ⟨rfl, rfl, rfl⟩⟩, rfl, hk.wf, rfl, rfl, rfl, rfl, ?_⟩
      · show ((s.advance n).harts.set s.turn c.hart).modify s.turn _ = _
        rw [hadv, List.set_set]
        have hr2 : State.Running { s with harts := s.harts.set s.turn c.hart } c.hart := by simp [State.Running, hl]
        have := modify_running hr2 (fun h => { h with alive := false })
        simp only [List.set_set] at this
        exact this
      · obtain ⟨new, e1, e2, e3⟩ := hk.ev
        refine ⟨.death s.turn f :: new, by show _ :: (Exec.left (EStateM.Result.error f c : EStateM.Result HartFault Cpu Unit)).events = _; rw [e1]; rfl, fun L hL => List.mem_cons_of_mem _ (e2 L hL), fun L hL => e3 L ?_⟩
        rcases List.mem_cons.mp hL with h | h
        · cases h
        · exact h

/-- The search for the next turn changes only turn, phase and round. -/
theorem turnFrom_rest (s : State) (w) : (s.turnFrom w).harts = s.harts ∧ (s.turnFrom w).mem = s.mem ∧
    (s.turnFrom w).events = s.events ∧ (s.turnFrom w).aliveCount = s.aliveCount ∧
    (s.turnFrom w).deathCount = s.deathCount ∧ (s.turnFrom w).endReason = s.endReason ∧
    (s.turnFrom w).params = s.params := by
  unfold State.turnFrom; split <;> exact ⟨rfl, rfl, rfl, rfl, rfl, rfl, rfl⟩

/-- After an instruction the scheduler changes of a warrior only the energy. -/
theorem afterInstr_rest (s : State) : ∃ e, (s.afterInstr.harts = s.harts ∨
    ∃ h, s.harts[s.turn]? = some h ∧ s.afterInstr.harts = s.harts.set s.turn { h with energy := e }) ∧
    s.afterInstr.mem = s.mem ∧ s.afterInstr.events = s.events ∧ s.afterInstr.aliveCount = s.aliveCount ∧
    s.afterInstr.deathCount = s.deathCount ∧ s.afterInstr.endReason = s.endReason ∧
    s.afterInstr.params = s.params := by
  unfold State.afterInstr
  split
  · exact ⟨0, .inl rfl, rfl, rfl, rfl, rfl, rfl, rfl⟩
  · rename_i h hh
    split
    · obtain ⟨a, b, c, d, e, f⟩ := turnFrom_rest s (s.turn+1); exact ⟨0, .inl a, b, c, d, e, f⟩
    · split
      · unfold State.afterMandatory
        simp only
        split
        · exact ⟨decayed s.params s.round h.energy, .inr ⟨h, hh, rfl⟩, rfl, rfl, rfl, rfl, rfl, rfl⟩
        · obtain ⟨a, b, c, d, e, f⟩ := turnFrom_rest { s with harts := s.harts.set s.turn { h with energy := decayed s.params s.round h.energy }, drawCount := s.drawCount + 1 } (s.turn+1)
          exact ⟨decayed s.params s.round h.energy, .inr ⟨h, hh, a⟩, b, c, d, e, f⟩
      · obtain ⟨a, b, c, d, e, f⟩ := turnFrom_rest s (s.turn+1); exact ⟨0, .inl a, b, c, d, e, f⟩

/-- The three kinds of step. -/
inductive StepNext (s t : State) : Prop where
  | boundary (h : s.phase = .boundary) (e : t = s.atBoundary)
  | dead (h : Hart) (hr : s.Running h) (ha : h.alive = false) (hp : s.phase ≠ .boundary) (e : t = s.nextTurn)
  | slot (h : Hart) (u : State) (hr : s.Running h) (ha : h.alive = true) (hp : s.phase ≠ .boundary) (hu :
    SlotLeaves s u h) (e : t = u.afterInstr)

/-- A step that goes on is one of the three kinds. -/
theorem step_next_cases (hwf : ∀ bs i rest, decode bs = .ok (i, rest) →
    i.wf = true) {s t} (hs : step s = .next t) : s.endReason = none ∧ StepNext s t := by
  unfold step State.blockStep at hs
  split at hs
  · cases hs
  · rename_i he
    refine ⟨by simpa using he, ?_⟩
    split at hs
    · rename_i hp; cases hs; exact .boundary hp rfl
    · rename_i hp
      split at hs
      · cases hs
      · rename_i h hr
        split at hs
        · rename_i ha
          obtain ⟨u, hu, sl⟩ := runInstr_leaves hwf (s := s) (h := h) hr
          rw [hu] at hs; cases hs
          exact .slot h u hr ha hp sl rfl
        · rename_i ha; cases hs; exact .dead h hr (by simpa using ha) hp rfl

/-- The round boundary changes no warrior and no memory. -/
theorem atBoundary_rest (s : State) : s.atBoundary.harts = s.harts ∧ s.atBoundary.mem = s.mem ∧
    s.atBoundary.aliveCount = s.aliveCount ∧ s.atBoundary.deathCount = s.deathCount ∧
    (∃ e, s.atBoundary.events = e :: s.events ∧ ∀ L, e ≠ .write L) ∧ s.atBoundary.params = s.params := by
  unfold State.atBoundary
  split
  · exact ⟨rfl, rfl, rfl, rfl, ⟨_, rfl, by simp⟩, rfl⟩
  · split
    · exact ⟨rfl, rfl, rfl, rfl, ⟨_, rfl, by simp⟩, rfl⟩
    · split
      · exact ⟨rfl, rfl, rfl, rfl, ⟨_, rfl, by simp⟩, rfl⟩
      · obtain ⟨a, b, c, d, e, f, g⟩ := turnFrom_rest { s with events := .round s.round :: s.events } 0
        exact ⟨a, b, d, e, ⟨_, c, by simp⟩, g⟩

/-- The search for the next turn keeps the invariant. -/
theorem turnFrom_inv (s : State) (w : Nat) (h0 : s.params.legal = true) (h1 : s.mem.wf s.params = true) (h2 : s.aliveCount = s.living) (h3 :
    s.aliveCount + s.deathCount = s.harts.length)
    (h4 : s.turn < s.harts.length) (h5 : ∀ h ∈ s.harts, tableWf s.params h.perm = true) (h6 :
    s.round < s.params.maxRound) (h7 : s.endReason = none) : (s.turnFrom w).Inv := by
  unfold State.turnFrom
  split
  · rename_i v hv
    unfold nextLiving at hv
    simp only [Option.map_eq_some_iff] at hv
    obtain ⟨k, hk, rfl⟩ := hv
    rw [List.findIdx?_eq_some_iff_getElem] at hk
    obtain ⟨hl, ha, _⟩ := hk
    simp only [List.getElem_drop, List.length_drop] at hl ha
    have hlt : w + k < s.harts.length := by omega
    exact ⟨h0, h1, h2, h3, hlt, h5, Nat.le_of_lt h6, fun _ => ⟨h7, h6, s.harts[w+k], List.getElem?_eq_getElem hlt, ha⟩⟩
  · exact ⟨h0, h1, h2, h3, h4, h5, h6, fun h => absurd rfl h⟩

/-- The living, counted after one warrior is replaced. -/
theorem countP_alive_set {hs : List Hart} {k : Nat} {h g : Hart} (hk : hs[k]? = some h) (ha :
    h.alive = true) :
    (hs.set k g).countP (fun h => h.alive) + 1 = hs.countP (fun h => h.alive) +
    (if g.alive then 1 else 0) := by
  induction hs generalizing k with
  | nil => cases hk
  | cons x xs ih =>
    cases k with
    | zero =>
      simp only [List.getElem?_cons_zero, Option.some.injEq] at hk; subst hk
      simp only [List.set_cons_zero, List.countP_cons, ha, if_true]; omega
    | succ k =>
      simp only [List.getElem?_cons_succ] at hk
      simp only [List.set_cons_succ, List.countP_cons]
      have := ih hk; omega

end Sys2Proof.Machine
end

