-- ==== Sys2Proof/Laws/Stores.lean ====
section
/-! SUPPORT. Where the operations that push, move strings or drop bombs store: Hoare triples over the running
hart whose claim about memory is that only the named addresses change. -/

namespace Sys2Proof.Machine

/-- Only bytes of these addresses differ, and no parameter. -/
def StoresIn (A : List Addr) (c d : Cpu) : Prop :=
  d.params = c.params ∧ ∀ L, L ∉ A.map (lin c.params) → d.mem.read c.params L = c.mem.read c.params L

theorem StoresIn.refl (A : List Addr) (c : Cpu) : StoresIn A c c := ⟨rfl, fun _ _ => rfl⟩

theorem StoresIn.trans {A c d e} (h : StoresIn A c d) (k : StoresIn A d e) : StoresIn A c e := by
  obtain ⟨hp, hm⟩ := h
  obtain ⟨kp, km⟩ := k
  rw [hp] at km
  exact ⟨kp.trans hp, fun L hL => (km L hL).trans (hm L hL)⟩

/-- Whatever writes no memory stays within any set of addresses. -/
theorem leaves_storesIn (A i) : Leaves (StoresIn A) i := by
  refine ⟨StoresIn.refl A, StoresIn.trans, fun c => StoresIn.refl A c, ?_, ?_, ?_, ?_, ?_, ?_, ?_, ?_, ?_⟩ <;> intros <;>
    exact ⟨rfl, fun _ _ => rfl⟩

/-- From a hart that meets `P`, `m` stores only to addresses of `A`,
    and where it goes on its hart meets `Q`. -/
def StoreTriple {α} (A : List Addr) (c0 : Cpu) (P : Hart → Prop) (m : Exec α) (Q : α → Hart → Prop) : Prop :=
  ∀ c, StoresIn A c0 c → P c.hart → StoresIn A c0 (Exec.left (m c)) ∧ ∀ a d, m c = .ok a d → Q a d.hart

section
variable {α β : Type} {A : List Addr} {c0 : Cpu} {P : Hart → Prop} {Q : α → Hart → Prop}

theorem StoreTriple.bind {m : Exec α} {k : α → Exec β} {S : β → Hart →
    Prop} (hm : StoreTriple A c0 P m Q) (hk : ∀ a, StoreTriple A c0 (Q a) (k a) S) :
    StoreTriple A c0 P (m >>= k) S := by
  intro c hr hp
  obtain ⟨h1, h2⟩ := hm c hr hp
  rw [exec_bind]
  cases e : m c with
  | ok a d => rw [e] at h1; exact hk a d h1 (h2 a d e)
  | error f d => rw [e] at h1; exact ⟨h1, fun a d h => by cases h⟩

/-- An operation known to stay within `A`. -/
theorem StoreTriple.of (m : Exec α) (h : Stays (StoresIn A) m) :
    StoreTriple A c0 P m (fun _ _ => True) := fun c hr _ => ⟨hr.trans (h c), fun _ _ _ => trivial⟩

theorem StoreTriple.get : StoreTriple A c0 P getHart (fun x h => x = h ∧
    P h) := fun c hr hp => ⟨hr, fun a d h => by cases h; exact ⟨rfl, hp⟩⟩

theorem StoreTriple.mod {f : Hart → Hart} {Q : Hart → Prop} (h : ∀ x, P x →
    Q (f x)) : StoreTriple A c0 P (modHart f) (fun _ => Q) :=
  fun c hr hp => ⟨hr, fun a d e => by cases e; exact h _ hp⟩

theorem StoreTriple.flags {f : Flags → Flags} {Q : Hart → Prop} (h : ∀ x : Hart, P x →
    Q { x with flags := f x.flags }) : StoreTriple A c0 P (modFlags f) (fun _ => Q) :=
  fun c hr hp => ⟨hr, fun a d e => by cases e; exact h _ hp⟩

theorem StoreTriple.pure (a : α) : StoreTriple A c0 P (Pure.pure a :
    Exec α) (fun _ => P) := fun c hr hp => ⟨hr, fun a d e => by cases e; exact hp⟩

theorem StoreTriple.read {ch a} : StoreTriple A c0 P (readByte ch a) (fun _ => P) := by
  intro c hr hp; unfold readByte; split
  · exact ⟨hr, fun a d e => by cases e; exact hp⟩
  · exact ⟨hr, fun a d e => by cases e⟩

theorem StoreTriple.read16 {a} : StoreTriple A c0 P (memRead16 a)
    (fun _ => P) := StoreTriple.bind StoreTriple.read fun _ => StoreTriple.bind StoreTriple.read
    fun _ => StoreTriple.pure _

theorem StoreTriple.write {a v} (h : ∀ x, P x → a ∈ A) : StoreTriple A c0 P (writeByte a v) (fun _ => P) := by
  intro c hr hp; unfold writeByte; split
  · refine ⟨hr.trans ⟨rfl, fun L hL => ?_⟩, fun a d e => by cases e; exact hp⟩
    exact read_write_other (by rintro rfl; exact hL (List.mem_map_of_mem (h _ hp)))
  · exact ⟨hr, fun a d e => by cases e⟩

theorem StoreTriple.write16 {a v} (h : ∀ x, P x → ∀ b ∈ wordAddrs a, b ∈ A) :
    StoreTriple A c0 P (memWrite16 a v) (fun _ => P) :=
  StoreTriple.bind (StoreTriple.write fun x hx => h x hx _ (by simp [wordAddrs])) fun _ =>
    StoreTriple.write fun x hx => h x hx _ (by simp [wordAddrs])

theorem StoreTriple.ite {p : Prop} [Decidable p] {a b : Exec α} (ha : p →
    StoreTriple A c0 P a Q) (hb : ¬ p → StoreTriple A c0 P b Q) :
    StoreTriple A c0 P (if p then a else b) Q := by
  split <;> simp_all

/-- A stronger premise. -/
theorem StoreTriple.pre {P' : Hart → Prop} {m : Exec α} (h : ∀ x, P x →
    P' x) (hm : StoreTriple A c0 P' m Q) : StoreTriple A c0 P m Q := fun c hr hp => hm c hr (h _ hp)

/-- A weaker conclusion. -/
theorem StoreTriple.post {Q' : α → Hart → Prop} {m : Exec α} (hm : StoreTriple A c0 P m Q') (h :
    ∀ a x, Q' a x → Q a x) : StoreTriple A c0 P m Q := fun c hr hp => ⟨(hm c hr hp).1,
    fun a d e => h _ _ ((hm c hr hp).2 a d e)⟩
end

/-- SS and SP as after `k` pushes from `g`. -/
def PushedTo (g : Hart) (k : Nat) (x : Hart) : Prop := x.SS = g.SS ∧ x.SP = g.SP - BitVec.ofNat 16 (2 * k)

theorem PushedTo.slot {g k x} (h : PushedTo g k x) : (⟨x.SS, x.SP - 2⟩ : Addr) = g.pushSlot k := by
  simp only [Hart.pushSlot, h.1, h.2, Nat.mul_add, BitVec.ofNat_add]
  congr 1
  rw [BitVec.sub_sub]; rfl

/-- A push, with any claim about the hart carried through. -/
theorem StoreTriple.push {A c0 P} {g : Hart} {k n : Nat} {v} (hA : ∀ j, j < n →
    ∀ b ∈ wordAddrs (g.pushSlot j), b ∈ A) (hk : k < n) (hP : ∀ x, P x → PushedTo g k x) {Q : Hart → Prop}
   (hQ : ∀ x : Hart, P x → Q { x with SP := x.SP - 2 }) : StoreTriple A c0 P (push16 v) (fun _ => Q) := by
  intro c hr hp
  have h1 := hP _ hp
  have hq := hQ _ hp
  have : StoreTriple A c0 (fun x => Q x ∧ PushedTo g k {x with SP := x.SP + 2 }) (memWrite16 ⟨c.hart.SS, c.hart.SP - 2⟩ v) (fun _ x => Q x ∧ PushedTo g k {x with SP := x.SP + 2 }) := 
    StoreTriple.write16 fun x hx b hb => hA k hk b (by rw [h1.slot] at hb; exact hb)
  have h2 := this (c.setHart { c.hart with SP := c.hart.SP - 2 }) hr ⟨hq, by simpa [PushedTo] using h1⟩
  refine ⟨?_, fun a d e => ?_⟩
  · simp only [push16, exec_bind, modHart_apply, getHart_apply]; exact h2.1
  · simp only [push16, exec_bind, modHart_apply, getHart_apply] at e
    exact (h2.2 a d e).1

theorem PushedTo.next {g k} {x : Hart} (h : PushedTo g k x) : PushedTo g (k+1) { x with SP := x.SP - 2 } := by
  refine ⟨h.1, ?_⟩
  show x.SP - 2 = _
  rw [h.2, Nat.mul_add, BitVec.ofNat_add, BitVec.sub_sub]; rfl

theorem PushedTo.zero (g : Hart) : PushedTo g 0 g := ⟨rfl, by simp⟩

/-- Push number `k` stores to its own slot. -/
theorem StoreTriple.pushAt {A c0} {g : Hart} {k n : Nat} {v} (hA : ∀ j, j < n →
    ∀ b ∈ wordAddrs (g.pushSlot j), b ∈ A) (hk : k < n) :
    StoreTriple A c0 (PushedTo g k) (push16 v) (fun _ => PushedTo g (k+1)) :=
  StoreTriple.push hA hk (fun _ h => h) fun _ h => h.next

/-- Nothing is claimed of the hart. -/
def noClaim {α : Type} : α → Hart → Prop := fun _ _ => True

/-- The slots an instruction pushes to are among its stores. -/
theorem pushSlot_mem_stores {i : Instr} {c : Cpu} : ∀ j, j < i.pushes →
    ∀ b ∈ wordAddrs (c.hart.pushSlot j), b ∈ i.stores c := by
  intro j hj b hb
  unfold Instr.stores
  refine List.mem_append_left _ (List.mem_append_right _ ?_)
  exact List.mem_flatMap.mpr ⟨j, List.mem_range.mpr hj, hb⟩

/-- So are the bytes its string elements go to. -/
theorem target_mem_stores {i : Instr} {c : Cpu} (n : Nat) (he : i.elements c.hart = (n, 1)) : ∀ k, k < n →
    c.hart.target 1 k ∈ i.stores c := by
  intro k hk
  unfold Instr.stores
  refine List.mem_append_right _ ?_
  rw [he]
  refine List.mem_flatMap.mpr ⟨k, List.mem_range.mpr hk, ?_⟩
  simp [addOffset]

/-- And the words. -/
theorem target_word_mem_stores {i : Instr} {c : Cpu} (n : Nat) (he : i.elements c.hart = (n, 2)) :
    ∀ k, k < n → ∀ b ∈ wordAddrs (c.hart.target 2 k), b ∈ i.stores c := by
  intro k hk b hb
  unfold Instr.stores
  refine List.mem_append_right _ ?_
  rw [he]
  refine List.mem_flatMap.mpr ⟨k, List.mem_range.mpr hk, ?_⟩
  simp only [wordAddrs, List.mem_cons, List.not_mem_nil, or_false] at hb
  rcases hb with rfl | rfl
  · simp [addOffset, List.range_succ]
  · simp [List.range_succ]

/-- Writing a byte destination stores there only. -/
theorem operand8_set_storesIn {i : Instr} {c : Cpu} {rm : Rm8} (h : i.dest8 = some rm) (v : Byte) :
    Stays (StoresIn (i.stores c)) ((c.hart.operand8 rm).set v) := by
  cases rm with
  | reg r => exact fun d => ⟨rfl, fun _ _ => rfl⟩
  | mem m =>
    intro d
    refine ((StoreTriple.write (P := fun _ => True) (c0 := d) (A := i.stores c) (a := c.hart.ea m) (v := v) fun _ _ => ?_) d (StoresIn.refl _ d) trivial).1
    unfold Instr.stores; rw [h]
    exact List.mem_append_left _ (List.mem_append_left _ (List.mem_append_left _ (List.mem_append_left _ (List.mem_singleton.mpr rfl))))

/-- Writing a word destination stores there only. -/
theorem operand16_set_storesIn {i : Instr} {c : Cpu} {rm : Rm16} (h : i.dest16 = some rm) (v : Word) :
    Stays (StoresIn (i.stores c)) ((c.hart.operand16 rm).set v) := by
  cases rm with
  | reg r => exact fun d => ⟨rfl, fun _ _ => rfl⟩
  | mem m =>
    intro d
    refine ((StoreTriple.write16 (P := fun _ => True) (c0 := d) (A := i.stores c) (a := c.hart.ea m) (v := v) fun _ _ b hb => ?_) d (StoresIn.refl _ d) trivial).1
    unfold Instr.stores; rw [h]
    exact List.mem_append_left _ (List.mem_append_left _ (List.mem_append_left _ (List.mem_append_right _ hb)))

/-- ES:DI points to element `k` of a string operation that began at `g`. -/
def AtElement (b : Nat) (g : Hart) (k : Nat) (x : Hart) : Prop := (⟨x.ES, x.DI⟩ : Addr) = g.target b k ∧
    x.flags.DF = g.flags.DF ∧ x.ES = g.ES

theorem AtElement.zero (b g) : AtElement b g 0 g := ⟨(target_zero g b).symm, rfl, rfl⟩

theorem AtElement.next {b : Nat} {g k} {x y : Hart} (h : AtElement b g k x) (h1 : y.ES = x.ES) (h2 :
    y.flags.DF = x.flags.DF) (h3 : y.DI = x.DI + stringStep (BitVec.ofNat 16 b) x) :
    AtElement b g (k+1) y := by
  refine ⟨?_, h2.trans h.2.1, h1.trans h.2.2⟩
  have h0 := h.1
  simp only [Hart.target, Addr.mk.injEq] at h0 ⊢
  refine ⟨h1.trans h.2.2, ?_⟩
  have e : stringStep (BitVec.ofNat 16 b) x = stringStep (BitVec.ofNat 16 b) g := by simp only [stringStep,
                                                            h.2.1]
  rw [h3, h0.2, e, BitVec.add_assoc]
  congr 1
  rw [BitVec.ofNat_add, BitVec.add_mul]
  simp

variable {A : List Addr} {c0 : Cpu} {g : Hart}

theorem StoreTriple.si {b w k} : StoreTriple A c0 (AtElement b g k) (advanceSi w)
    (fun _ => AtElement b g k) := StoreTriple.mod fun x h => h

theorem storeTriple_movs8 {n k} (hA : ∀ j, j < n → g.target 1 j ∈ A) (hk : k < n) :
    StoreTriple A c0 (AtElement 1 g k) (movs byteElement) (fun _ => AtElement 1 g (k+1)) :=
  StoreTriple.bind StoreTriple.get fun y => StoreTriple.bind StoreTriple.read fun _ =>
    StoreTriple.bind (StoreTriple.write fun x hx => by rw [hx.1, hx.2.1]; exact hA k hk) fun _ =>
    StoreTriple.bind (StoreTriple.mod (Q := AtElement 1 g k) fun x hx => hx.2) fun _ =>
    StoreTriple.mod fun x hx => hx.next rfl rfl rfl

theorem storeTriple_movs16 {n k} (hA : ∀ j, j < n → ∀ b ∈ wordAddrs (g.target 2 j), b ∈ A) (hk : k < n) :
    StoreTriple A c0 (AtElement 2 g k) (movs wordElement) (fun _ => AtElement 2 g (k+1)) :=
  StoreTriple.bind StoreTriple.get fun y => StoreTriple.bind StoreTriple.read16 fun _ =>
    StoreTriple.bind (StoreTriple.write16 fun x hx b hb => by rw [hx.1,
                                                            hx.2.1] at hb; exact hA k hk b hb) fun _ =>
    StoreTriple.bind (StoreTriple.mod (Q := AtElement 2 g k) fun x hx => hx.2) fun _ =>
    StoreTriple.mod fun x hx => hx.next rfl rfl rfl

theorem storeTriple_stos8 {n k} (hA : ∀ j, j < n → g.target 1 j ∈ A) (hk : k < n) :
    StoreTriple A c0 (AtElement 1 g k) (stos byteElement) (fun _ => AtElement 1 g (k+1)) :=
  StoreTriple.bind StoreTriple.get fun y =>
    StoreTriple.bind (StoreTriple.write fun x hx => by rw [hx.1, hx.2.1]; exact hA k hk) fun _ =>
    StoreTriple.mod fun x hx => hx.2.next rfl rfl rfl

theorem storeTriple_stos16 {n k} (hA : ∀ j, j < n → ∀ b ∈ wordAddrs (g.target 2 j), b ∈ A) (hk : k < n) :
    StoreTriple A c0 (AtElement 2 g k) (stos wordElement) (fun _ => AtElement 2 g (k+1)) :=
  StoreTriple.bind StoreTriple.get fun y =>
    StoreTriple.bind (StoreTriple.write16 fun x hx b hb => by rw [hx.1,
                                                            hx.2.1] at hb; exact hA k hk b hb) fun _ =>
    StoreTriple.mod fun x hx => hx.2.next rfl rfl rfl

theorem storeTriple_repeatLoop {b : Nat} {body : Exec Unit} {stop : Flags →
    Bool} {n : Nat} (hb : ∀ k, k < n → StoreTriple A c0 (AtElement b g k) body (fun _ => AtElement b g
    (k+1))) :
   ∀ m k, k + m ≤ n → StoreTriple A c0 (AtElement b g k) (repeatLoop body stop m) noClaim := by
  intro m
  induction m with
  | zero => intro k _; exact (StoreTriple.pure ()).post fun _ _ _ => trivial
  | succ m ih =>
    intro k hk
    refine StoreTriple.bind (hb k (by omega)) fun _ => StoreTriple.bind (StoreTriple.mod (Q := AtElement b g (k+1)) fun x hx => hx) fun _ => StoreTriple.bind StoreTriple.get fun y => ?_
    exact StoreTriple.ite (fun _ => (StoreTriple.pure ()).post fun _ _ _ => trivial) fun _ => (ih (k+1) (by omega)).pre fun x hx => hx.2

theorem storeTriple_repeatString {b : Nat} {body : Exec Unit} {stop : Flags →
    Bool} (hb : ∀ k, k < g.CX.toNat → StoreTriple A c0 (AtElement b g k) body (fun _ => AtElement b g
    (k+1))) : StoreTriple A c0 (fun x => x = g) (repeatString body stop) noClaim := by
  refine StoreTriple.bind StoreTriple.get fun y => ?_
  intro c hr hp
  obtain ⟨rfl, hp⟩ := hp
  rw [hp]
  exact storeTriple_repeatLoop hb g.CX.toNat 0 (by omega) c hr (by rw [hp]; exact AtElement.zero b g)

theorem storeTriple_pushes : ∀ (vs : List Word) (k n : Nat) (_ : ∀ j, j < n →
    ∀ b ∈ wordAddrs (g.pushSlot j), b ∈ A) (_ : k + vs.length ≤ n) (m :
    Exec Unit), StoreTriple A c0 (PushedTo g (k + vs.length)) m noClaim →
   StoreTriple A c0 (PushedTo g k) (vs.foldr (fun v m => do push16 v; m) m) noClaim := by
  intro vs
  induction vs with
  | nil => intro k n _ _ m hm; exact hm
  | cons v vs ih => intro k n hA hk m hm; exact StoreTriple.bind (StoreTriple.pushAt hA (by simp at hk; omega)) fun _ => ih (k+1) n hA (by simp at hk; omega) m (by simpa [Nat.add_assoc, Nat.add_comm 1] using hm)

theorem storeTriple_end {m : Exec Unit} {k} (h : Stays (StoresIn A) m) :
    StoreTriple A c0 (PushedTo g k) m noClaim := (StoreTriple.of m h).post fun _ _ _ => trivial

theorem storeTriple_dispatch {n : Byte} (hA : ∀ j, j < 3 →
    ∀ b ∈ wordAddrs (g.pushSlot j), b ∈ A) (F : Leaves (StoresIn A) .int3) :
    StoreTriple A c0 (PushedTo g 0) (dispatch n) noClaim := by
  refine StoreTriple.bind StoreTriple.get fun y => ?_
  refine StoreTriple.pre (P' := PushedTo g 0) (fun x h => h.2) ?_
  refine StoreTriple.bind (StoreTriple.pushAt hA (by omega)) fun _ => StoreTriple.bind (StoreTriple.flags (Q := PushedTo g 1) fun x h => h) fun _ => StoreTriple.bind (StoreTriple.pushAt hA (by omega)) fun _ => StoreTriple.bind (StoreTriple.pushAt hA (by omega)) fun _ => ?_
  exact storeTriple_end (F.bind (F.read16 _) fun o => F.bind (F.read16 _) fun s => fun _ => ⟨rfl, fun _ _ => rfl⟩)

theorem storeTriple_enterCopies {n : Nat} (hA : ∀ j, j < n →
    ∀ b ∈ wordAddrs (g.pushSlot j), b ∈ A) : ∀ m k, k + m ≤ n →
    StoreTriple A c0 (PushedTo g k) (enterCopies m) (fun _ => PushedTo g (k+m)) := by
  intro m
  induction m with
  | zero => intro k _; exact StoreTriple.pure ()
  | succ m ih =>
    intro k hk
    refine StoreTriple.bind (StoreTriple.mod (Q := PushedTo g k) fun x h => h) fun _ => StoreTriple.bind StoreTriple.get fun y => ?_
    refine StoreTriple.pre (P' := PushedTo g k) (fun x h => h.2) ?_
    refine StoreTriple.bind StoreTriple.read16 fun _ => StoreTriple.bind (StoreTriple.pushAt hA (by omega)) fun _ => ?_
    have := ih (k+1) (by omega)
    rwa [show k + 1 + m = k + (m+1) by omega] at this

theorem storeTriple_enterFrame {size : Word} {level : Byte} (hA : ∀ j, j < 1 + level.toNat % 32 →
    ∀ b ∈ wordAddrs (g.pushSlot j), b ∈ A) : StoreTriple A c0 (PushedTo g 0)
    (enterFrame size level) noClaim := by
  refine StoreTriple.bind StoreTriple.get fun y => ?_
  refine StoreTriple.pre (P' := PushedTo g 0) (fun x h => h.2) ?_
  refine StoreTriple.bind (StoreTriple.pushAt hA (by omega)) fun _ => StoreTriple.bind StoreTriple.get fun z => ?_
  refine StoreTriple.pre (P' := PushedTo g 1) (fun x h => h.2) ?_
  refine StoreTriple.bind (Q := fun _ _ => True) ?_ fun _ => StoreTriple.mod fun _ _ => trivial
  unfold enterDisplay
  split
  · exact (StoreTriple.pure ()).post fun _ _ _ => trivial
  · rename_i k hk
    refine StoreTriple.bind (storeTriple_enterCopies hA k 1 (by omega)) fun _ => (StoreTriple.pushAt hA (by omega)).post fun _ _ _ => trivial

theorem storeTriple_bombStore {k v} (hA : ∀ j, j < 128 →
    ∀ b ∈ wordAddrs (g.target 2 j), b ∈ A) (hk : k < 128) :
    StoreTriple A c0 (AtElement 2 g k) (bombStore v) (fun _ => AtElement 2 g (k+1)) :=
  StoreTriple.bind StoreTriple.get fun y =>
    StoreTriple.bind (StoreTriple.write16 fun x hx b hb => by rw [hx.1,
                                                            hx.2.1] at hb; exact hA k hk b hb) fun _ =>
    StoreTriple.mod fun x hx => hx.2.next rfl rfl (by
    show (if x.flags.DF = true then x.DI - 2 else x.DI + 2) = _
    simp only [stringStep]; split
    · rw [BitVec.sub_eq_add_neg]; rfl
    · rfl)

theorem storeTriple_bombPairs (hA : ∀ j, j < 128 → ∀ b ∈ wordAddrs (g.target 2 j), b ∈ A) :
    ∀ m k, k + 2 * m ≤ 128 → StoreTriple A c0 (AtElement 2 g k) (bombPairs m) noClaim := by
  intro m
  induction m with
  | zero => intro k _; exact (StoreTriple.pure ()).post fun _ _ _ => trivial
  | succ m ih =>
    intro k hk
    refine StoreTriple.bind StoreTriple.get fun y => ?_
    refine StoreTriple.pre (P' := AtElement 2 g k) (fun x h => h.2) ?_
    exact StoreTriple.bind (storeTriple_bombStore hA (by omega)) fun _ => StoreTriple.bind (storeTriple_bombStore hA (by omega)) fun _ => ih (k+2) (by omega)

/-- The place the smart bomb looks at after `i` places. -/
def searchPlace (h : Hart) (i : Nat) : Addr := ⟨h.ES, h.DI + BitVec.ofNat 16 i⟩

/-- The first element of a list that meets `p` is found. -/
theorem find_of_first {α : Type} (p : α → Bool) : ∀ (l : List α) (k : Nat) (a : α), l[k]? = some a →
    p a = true → (∀ j b, j < k → l[j]? = some b → p b = false) → l.find? p = some a := by
  intro l
  induction l with
  | nil => intro k a h; cases h
  | cons x l ih =>
    intro k a h hp hj
    cases k with
    | zero => simp at h; subst h; simp [hp]
    | succ k =>
      rw [List.find?_cons_of_neg (by rw [hj 0 x (by omega) rfl]; decide)]
      exact ih k a (by simpa using h) hp fun j b hjk hb => hj (j+1) b (by omega) (by simpa using hb)

theorem readByte_of {ch a} {c : Cpu} (h : allowed c.params c.hart.perm (lin c.params a) ch = true) :
    readByte ch a c = .ok (c.byteAt a) c := if_pos h

theorem readByte_of_not {ch a} {c : Cpu} (h : ¬ allowed c.params c.hart.perm (lin c.params a) ch = true) :
    readByte ch a c = .error (.memoryFault ch (lin c.params a)) c := if_neg h

/-- A word read answers the word or faults, and changes nothing. -/
theorem memRead16_cases (a : Addr) (c : Cpu) : memRead16 a c = .ok (c.wordAt a) c ∨
    ∃ f, memRead16 a c = .error f c := by
  unfold memRead16
  by_cases h1 : allowed c.params c.hart.perm (lin c.params a) .read = true
  · by_cases h2 : allowed c.params c.hart.perm (lin c.params (addOffset a 1)) .read = true
    · left; rw [exec_bind_ok (readByte_of h1), exec_bind_ok (readByte_of h2)]; rfl
    · right; rw [exec_bind_ok (readByte_of h1), exec_bind_error (readByte_of_not h2)]; exact ⟨_, rfl⟩
  · right; rw [exec_bind_error (readByte_of_not h1)]; exact ⟨_, rfl⟩

/-- The smart bomb's search stores to the first match alone. -/
theorem bombSearch_stores (c d : Cpu) (hq : d.params = c.params) (hm : d.mem = c.mem) (he : d.hart.ES = c.hart.ES) (hd :
    d.hart.DI = c.hart.DI) (ha : d.hart.AX = c.hart.AX) (hx : d.hart.DX = c.hart.DX) :
   ∀ left, left ≤ 0x10000 → (∀ j, j < 0x10000 - left →
    (c.wordAt (searchPlace c.hart j) == c.hart.AX && c.wordAt (addOffset
    (searchPlace c.hart j) 2) == c.hart.DX) = false) →
    StoresIn (Instr.int87.stores c) d (Exec.left (bombSearch left d)) := by
  have hw : ∀ a, d.wordAt a = c.wordAt a := fun a => by simp only [Cpu.wordAt, Cpu.byteAt, hm, hq]
  intro left
  induction left with
  | zero => intro _ _; exact StoresIn.refl _ d
  | succ k ih =>
    intro hk hj
    have hpl : (⟨d.hart.ES, d.hart.DI + BitVec.ofNat 16 (0xFFFF - k)⟩ : Addr) = searchPlace c.hart (0xFFFF - k) := by rw [he, hd]; rfl
    have next : (c.wordAt (searchPlace c.hart (0xFFFF - k)) == c.hart.AX && c.wordAt (addOffset (searchPlace c.hart (0xFFFF - k)) 2) == c.hart.DX) = false → StoresIn (Instr.int87.stores c) d (Exec.left (bombSearch k d)) := by
      intro hf
      refine ih (by omega) fun j hjk => ?_
      by_cases e : j = 0xFFFF - k
      · subst e; exact hf
      · exact hj j (by omega)
    unfold bombSearch
    rw [exec_bind_ok (getHart_apply d), hpl]
    rcases memRead16_cases (searchPlace c.hart (0xFFFF - k)) d with e1 | ⟨f, e1⟩
    · rw [exec_bind_ok e1, hw, ha]
      split
      · rename_i hv
        rcases memRead16_cases (addOffset (searchPlace c.hart (0xFFFF - k)) 2) d with e2 | ⟨f, e2⟩
        · rw [exec_bind_ok e2, hw, hx]
          split
          · rename_i hv2
            have hb : c.bombPlace = some (searchPlace c.hart (0xFFFF - k)) := by
              unfold Cpu.bombPlace
              refine find_of_first _ _ (0xFFFF - k) _ ?_ ?_ ?_
              · rw [List.getElem?_map, List.getElem?_range (by omega)]; rfl
              · rw [hv, hv2]; simp
              · intro j b hjk hb
                rw [List.getElem?_map, List.getElem?_range (by omega)] at hb
                simp only [Option.map_some, Option.some.injEq] at hb
                subst hb
                exact hj j (by omega)
            have hmem : ∀ b, b ∈ wordAddrs (searchPlace c.hart (0xFFFF - k)) ++ wordAddrs (addOffset (searchPlace c.hart (0xFFFF - k)) 2) → b ∈ Instr.int87.stores c := by
              intro b hb'
              unfold Instr.stores
              refine List.mem_append_left _ (List.mem_append_left _ (List.mem_append_right _ ?_))
              simp only [hb]; exact hb'
            refine (StoreTriple.bind (P := fun _ => True) (StoreTriple.write16 ?_) (fun _ => StoreTriple.write16 ?_) d (StoresIn.refl _ d) trivial).1
            · intro _ _ b hb'; exact hmem b (List.mem_append_left _ hb')
            · intro _ _ b hb'; exact hmem b (List.mem_append_right _ hb')
          · rename_i hv2; exact next (by rw [beq_eq_false_iff_ne.mpr hv2, Bool.and_false])
        · rw [exec_bind_error e2]; exact StoresIn.refl _ d
      · rename_i hv; exact next (by simp [hv])
    · rw [exec_bind_error e1]; exact StoresIn.refl _ d

end Sys2Proof.Machine
end

