-- ==== Sys2Proof/Laws/Tables.lean ====
section
/-! SUPPORT. Permission tables: what a location reads as in a table put together, cut or merged. -/

namespace Sys2Proof.Machine

/-- The region a location lies in is the first that ends above it. -/
theorem permAt_dropWhile (T : List Region) (L : Nat) :
    permAt T L = match T.dropWhile (fun r => decide (r.stop ≤ L)) with
  | [] => 0
  | r :: _ => r.perm := by
  induction T with
  | nil => rfl
  | cons r T ih =>
    by_cases h : r.stop ≤ L
    · rw [List.dropWhile_cons_of_pos (by simpa using h), permAt, if_neg (by omega), ih]
    · rw [List.dropWhile_cons_of_neg (by simpa using h), permAt, if_pos (by omega)]

theorem lt_stop_of_dropWhile {T : List Region} {L r rest} (h :
    T.dropWhile (fun r => decide (r.stop ≤ L)) = r :: rest) : L < r.stop := by
  have := List.head_dropWhile_not (fun r : Region => decide (r.stop ≤ L)) (l := T) (by rw [h]; simp)
  simp only [h, List.head_cons, decide_eq_false_iff_not] at this; omega

/-- Where a table that begins at `low` ends. -/
def endFrom (low : Nat) : List Region → Nat
  | [] => low
  | r :: T => endFrom r.stop T

theorem tableEnd_eq_endFrom : ∀ T, tableEnd T = endFrom 0 T := by
  intro T
  induction T with
  | nil => rfl
  | cons r T ih => cases T with
    | nil => rfl
    | cons q T => exact ih

theorem endFrom_ge {low T} (h : risingFrom low T = true) : low ≤ endFrom low T := by
  induction T generalizing low with
  | nil => exact Nat.le_refl _
  | cons r T ih =>
    simp only [risingFrom, Bool.and_eq_true, decide_eq_true_eq] at h
    exact le_trans (le_of_lt h.1) (ih h.2)

theorem endFrom_append (low A B) : endFrom low (A ++ B) = endFrom (endFrom low A) B := by
  induction A generalizing low with
  | nil => rfl
  | cons r T ih => exact ih _

theorem risingFrom_append {low A B} : risingFrom low (A ++ B) = true ↔ risingFrom low A = true ∧
    risingFrom (endFrom low A) B = true := by
  induction A generalizing low with
  | nil => simp [risingFrom, endFrom]
  | cons r T ih => simp only [List.cons_append, risingFrom, Bool.and_eq_true, ih, endFrom, and_assoc]

/-- A location of two tables one after the other lies in the first where it lies below its end. -/
theorem permAt_append {low A B L} (h : risingFrom low A = true) (hl : low ≤ L) :
   permAt (A ++ B) L = if L < endFrom low A then permAt A L else permAt B L := by
  induction A generalizing low with
  | nil => rw [endFrom, if_neg (by omega)]; rfl
  | cons r T ih =>
    simp only [risingFrom, Bool.and_eq_true, decide_eq_true_eq] at h
    simp only [List.cons_append, permAt, endFrom]
    have := endFrom_ge h.2
    by_cases hr : L < r.stop
    · simp only [if_pos hr]; rw [if_pos (by omega)]
    · simp only [if_neg hr]; exact ih h.2 (by omega)

/-- Below the cut a clipped table reads as before. -/
theorem permAt_clipTable {lo start T L} (h : risingFrom start T = true) (h1 : start ≤ L) (h2 : L < lo) :
    permAt (clipTable lo start T) L = permAt T L := by
  induction T generalizing start with
  | nil => rfl
  | cons r T ih =>
    simp only [risingFrom, Bool.and_eq_true, decide_eq_true_eq] at h
    simp only [clipTable]
    split
    · simp only [permAt]; split
      · rfl
      · exact ih h.2 (by omega)
    · rw [if_pos (by omega)]; simp only [permAt]; rw [if_pos (by omega), if_pos (by omega)]

/-- A clipped table rises, ends at the cut or below it, and is whole where it ends below. -/
theorem clipTable_rising {lo start T} (h : risingFrom start T = true) :
    risingFrom start (clipTable lo start T) = true ∧ endFrom start (clipTable lo start T) ≤ max start lo ∧
    (endFrom start (clipTable lo start T) < lo → clipTable lo start T = T) := by
  induction T generalizing start with
  | nil => simp [clipTable, risingFrom, endFrom]
  | cons r T ih =>
    simp only [risingFrom, Bool.and_eq_true, decide_eq_true_eq] at h
    simp only [clipTable]
    obtain ⟨a, b, c⟩ := ih h.2
    split
    · simp only [risingFrom, endFrom, Bool.and_eq_true, decide_eq_true_eq]
      refine ⟨⟨h.1, a⟩, by omega, fun hc => by rw [c hc]⟩
    · split
      · simp [risingFrom, endFrom]; omega
      · simp [risingFrom, endFrom]; omega

/-- A clipped table's regions keep what the regions of the whole have. -/
theorem clipTable_forall {lo start T} {p : Region → Prop} (h : ∀ r ∈ T, p r) (hp :
    ∀ r ∈ T, p ⟨lo, r.perm⟩) : ∀ r ∈ clipTable lo start T, p r := by
  induction T generalizing start with
  | nil => intro r hr; cases hr
  | cons q T ih =>
    simp only [clipTable]
    intro r hr
    split at hr
    · rcases List.mem_cons.mp hr with rfl | hr
      · exact h _ (List.mem_cons_self ..)
      · exact ih (fun r hr => h r (List.mem_cons_of_mem _ hr)) (fun r hr => hp r (List.mem_cons_of_mem _ hr)) r hr
    · split at hr
      · rw [List.mem_singleton] at hr; subst hr; exact hp q (List.mem_cons_self ..)
      · cases hr

/-- What lies below and above a range is at most one region more than the table. -/
theorem clipTable_length {lo hi start T} (hl : lo ≤ hi) :
    (clipTable lo start T).length + (T.filter fun r => decide (hi < r.stop)).length ≤ T.length + 1 := by
  induction T generalizing start with
  | nil => simp [clipTable]
  | cons q T ih =>
    simp only [clipTable]
    split
    · rw [List.filter_cons_of_neg (by simp; omega)]; simp only [List.length_cons]
      have := ih (start := q.stop); omega
    · have := List.length_filter_le (fun r : Region => decide (hi < r.stop)) (q :: T)
      split <;> simp only [List.length_cons, List.length_nil] at * <;> omega

/-- Above the range the regions that end above it read as before. -/
theorem permAt_above {hi T L} (h : hi ≤ L) : permAt (T.filter
    fun r => decide (hi < r.stop)) L = permAt T L := by
  induction T with
  | nil => rfl
  | cons r T ih =>
    by_cases hr : hi < r.stop
    · rw [List.filter_cons_of_pos (by simpa using hr)]; simp only [permAt, ih]
    · rw [List.filter_cons_of_neg (by simpa using hr), ih, permAt, if_neg (by omega)]

/-- The regions that end above a range rise from its end. -/
theorem above_rising {hi start T} (h : risingFrom start T = true) :
    risingFrom (max start hi) (T.filter fun r => decide (hi < r.stop)) = true ∧
    endFrom (max start hi) (T.filter fun r => decide (hi < r.stop)) = max hi (endFrom start T) := by
  induction T generalizing start with
  | nil => simp [risingFrom, endFrom, Nat.max_comm]
  | cons r T ih =>
    simp only [risingFrom, Bool.and_eq_true, decide_eq_true_eq] at h
    obtain ⟨a, b⟩ := ih h.2
    by_cases hr : hi < r.stop
    · rw [List.filter_cons_of_pos (by simpa using hr)]
      rw [Nat.max_eq_left (by omega)] at a b
      simp only [risingFrom, endFrom, Bool.and_eq_true, decide_eq_true_eq]
      exact ⟨⟨by omega, a⟩, b⟩
    · rw [List.filter_cons_of_neg (by simpa using hr)]
      rw [Nat.max_eq_right (by omega)] at a b
      rw [Nat.max_eq_right (by omega)]
      exact ⟨a, b⟩

/-- Merging keeps what every location reads as, and leaves no two neighbours alike. -/
theorem mergeRegions_spec {start T} (h : risingFrom start T = true) :
    risingFrom start (mergeRegions T) = true ∧ endFrom start (mergeRegions T) = endFrom start T ∧
    (mergeRegions T).length ≤ T.length ∧ (∀ L, start ≤ L → permAt (mergeRegions T) L = permAt T L) ∧
    (∀ r ∈ mergeRegions T, r ∈ T) ∧ (mergeRegions T).IsChain fun p q => p.perm ≠ q.perm := by
  induction T generalizing start with
  | nil => simp [mergeRegions]; exact h
  | cons r T ih =>
    simp only [risingFrom, Bool.and_eq_true, decide_eq_true_eq] at h
    obtain ⟨a, b, c, d, e, f⟩ := ih h.2
    simp only [mergeRegions]
    cases hm : mergeRegions T with
    | nil =>
      rw [hm] at b d
      simp only [risingFrom, endFrom, Bool.and_eq_true, decide_eq_true_eq, and_true, List.length_cons,
                 List.length_nil]
      refine ⟨h.1, b, by omega, fun L hL => ?_, ?_, by simp⟩
      · simp only [permAt]; split
        · rfl
        · exact d L (by omega)
      · intro q hq; rw [List.mem_singleton] at hq; subst hq; exact List.mem_cons_self ..
    | cons q m =>
      rw [hm] at a b c d e f
      simp only [risingFrom, Bool.and_eq_true, decide_eq_true_eq] at a
      simp only
      split
      · rename_i hp
        simp only [risingFrom, endFrom, Bool.and_eq_true, decide_eq_true_eq] at *
        refine ⟨⟨by omega, a.2⟩, b, by simp only [List.length_cons] at *; omega, fun L hL => ?_, fun x hx => List.mem_cons_of_mem _ (e x hx), f⟩
        by_cases hr : L < r.stop
        · simp only [permAt, if_pos hr, if_pos (show L < q.stop by omega), hp]
        · rw [d L (by omega)]; simp only [permAt, if_neg hr]
      · rename_i hp
        simp only [risingFrom, endFrom, Bool.and_eq_true, decide_eq_true_eq] at *
        refine ⟨⟨h.1, a⟩, b, by simp only [List.length_cons] at *; omega, fun L hL => ?_, ?_, ?_⟩
        · by_cases hr : L < r.stop
          · simp only [permAt, if_pos hr]
          · rw [permAt, if_neg hr, d L (by omega), permAt, if_neg hr]
        · intro x hx
          rcases List.mem_cons.mp hx with rfl | hx
          · exact List.mem_cons_self ..
          · exact List.mem_cons_of_mem _ (e x hx)
        · exact List.IsChain.cons_cons hp f

end Sys2Proof.Machine
end

