-- ==== Sys2Proof/Tests/Slice0.lean ====
section
/-! SUPPORT. The model's own tests: ill-formed terms that WellFormed refuses; a word written out from the spec's
encodings for every constructor; one-step vectors of 95_test_vectors.md; and, for every obligation with hypotheses, a
state and operands that meet them. -/

namespace Sys2Proof.Tests

open Sys2Proof.Machine

/-! ### WellFormed refuses -/

/-- `[BP]` without a displacement has no encoding (R117). -/
theorem test_wf_bp_needs_displacement : (Instr.movGwEw .AX (.mem (.plain .bp))).wf = false := by decide

theorem test_wf_bp_needs_displacement_byte : (Instr.incEb (.mem (.plain .bp))).wf = false := by decide

theorem test_wf_bp_needs_displacement_lea : (Instr.leaGwM .AX (.plain .bp)).wf = false := by decide

/-- The register form of LEA, LES, LDS and the far forms is a row of its own: their operand is a memory operand by its
type (R418). The three memory submodes are all accepted. -/
theorem test_wf_memory_submodes :
    [Instr.leaGwM .AX (.absolute 6), .leaGwM .AX (.disp8 .bp 0), .leaGwM .AX (.disp16 .bp 0)].all Instr.wf = true := by
  decide

/-- 90 is the NOP row, not XCHG AX, AX (R209). -/
theorem test_wf_xchg_ax_ax : (Instr.xchgAxReg16 .AX).wf = false := by decide

/-- INT 0x86, 0x87, 0x88 are rows of their own (R136). -/
theorem test_wf_virtual_vectors :
    [(0x86 : Byte), 0x87, 0x88].all (fun n => !(Instr.intImm8 n).wf) = true := by decide

/-- A repeat prefix before a string opcode is the repeated instruction (R131). -/
theorem test_wf_repeat_prefix_broken :
    [Instr.repBroken 0xA4, .repBroken 0xAF, .repnzBroken 0xA6, .repnzBroken 0xAA].all (fun i => !i.wf) = true := by
  decide

/-- 9B 9B 9B 9B is NRG (R132). -/
theorem test_wf_nrg_broken :
    [Instr.nrgBroken 0 0x9B, .nrgBroken 1 0x9B, .nrgBroken 2 0x9B].all (fun i => !i.wf) = true := by decide

/-! ### Words of every constructor -/

/-- What the decoder answers for each row's bytes with one more byte after them. -/
def reads (rows : List (List Byte × Instr)) : List Parsed := rows.map fun r => decode (r.1 ++ [0xAB])

/-- The row's instruction, and the byte after it left over. -/
def expected (rows : List (List Byte × Instr)) : List Parsed := rows.map fun r => .ok (r.2, [0xAB])

/-- Words of ADD, OR, ADC, SBB (R172 to R175). -/
def words_alu_one : List (List Byte × Instr) := [
  ([0x00, 0x66, 0x00], .addEbGb (.mem (.disp8 .bp 0)) .AH),
  ([0x01, 0x14], .addEwGw (.mem (.plain .si)) .DX),
  ([0x02, 0x82, 0x01, 0x00], .addGbEb .AL (.mem (.disp16 .bpSi 1))),
  ([0x03, 0x70, 0x7F], .addGwEw .SI (.mem (.disp8 .bxSi 0x7F))),
  ([0x04, 0x3C], .addAlImm8 0x3c),
  ([0x05, 0xFE, 0xFF], .addAxImm16 0xfffe),
  ([0x08, 0x54, 0x02], .orEbGb (.mem (.disp8 .si 2)) .DL),
  ([0x09, 0x02], .orEwGw (.mem (.plain .bpSi)) .AX),
  ([0x0A, 0xB0, 0xCD, 0xAB], .orGbEb .DH (.mem (.disp16 .bxSi 0xABCD))),
  ([0x0B, 0x27], .orGwEw .SP (.mem (.plain .bx))),
  ([0x0C, 0x3C], .orAlImm8 0x3c),
  ([0x0D, 0x01, 0x80], .orAxImm16 0x8001),
  ([0x10, 0x42, 0xFE], .adcEbGb (.mem (.disp8 .bpSi 0xFE)) .AL),
  ([0x11, 0x30], .adcEwGw (.mem (.plain .bxSi)) .SI),
  ([0x12, 0x66, 0x00], .adcGbEb .AH (.mem (.disp8 .bp 0))),
  ([0x13, 0x14], .adcGwEw .DX (.mem (.plain .si))),
  ([0x14, 0x3C], .adcAlImm8 0x3c),
  ([0x15, 0xFE, 0xFF], .adcAxImm16 0xfffe),
  ([0x18, 0x70, 0x7F], .sbbEbGb (.mem (.disp8 .bxSi 0x7F)) .DH),
  ([0x19, 0xA6, 0x08, 0x00], .sbbEwGw (.mem (.disp16 .bp 8)) .SP),
  ([0x1A, 0x54, 0x02], .sbbGbEb .DL (.mem (.disp8 .si 2))),
  ([0x1B, 0x02], .sbbGwEw .AX (.mem (.plain .bpSi))),
  ([0x1C, 0x3C], .sbbAlImm8 0x3c),
  ([0x1D, 0x01, 0x80], .sbbAxImm16 0x8001)]

theorem test_decode_alu_one : reads words_alu_one = expected words_alu_one := by rfl

/-- Words of AND, SUB, XOR, CMP (R176 to R179). -/
def words_alu_two : List (List Byte × Instr) := [
  ([0x20, 0x27], .andEbGb (.mem (.plain .bx)) .AH),
  ([0x21, 0x94, 0x00, 0x80], .andEwGw (.mem (.disp16 .si 0x8000)) .DX),
  ([0x22, 0x42, 0xFE], .andGbEb .AL (.mem (.disp8 .bpSi 0xFE))),
  ([0x23, 0x30], .andGwEw .SI (.mem (.plain .bxSi))),
  ([0x24, 0x3C], .andAlImm8 0x3c),
  ([0x25, 0xFE, 0xFF], .andAxImm16 0xfffe),
  ([0x28, 0x14], .subEbGb (.mem (.plain .si)) .DL),
  ([0x29, 0x82, 0x01, 0x00], .subEwGw (.mem (.disp16 .bpSi 1)) .AX),
  ([0x2A, 0x70, 0x7F], .subGbEb .DH (.mem (.disp8 .bxSi 0x7F))),
  ([0x2B, 0xA6, 0x08, 0x00], .subGwEw .SP (.mem (.disp16 .bp 8))),
  ([0x2C, 0x3C], .subAlImm8 0x3c),
  ([0x2D, 0x01, 0x80], .subAxImm16 0x8001),
  ([0x30, 0x02], .xorEbGb (.mem (.plain .bpSi)) .AL),
  ([0x31, 0xB0, 0xCD, 0xAB], .xorEwGw (.mem (.disp16 .bxSi 0xABCD)) .SI),
  ([0x32, 0x27], .xorGbEb .AH (.mem (.plain .bx))),
  ([0x33, 0x94, 0x00, 0x80], .xorGwEw .DX (.mem (.disp16 .si 0x8000))),
  ([0x34, 0x3C], .xorAlImm8 0x3c),
  ([0x35, 0xFE, 0xFF], .xorAxImm16 0xfffe),
  ([0x38, 0x30], .cmpEbGb (.mem (.plain .bxSi)) .DH),
  ([0x39, 0x66, 0x00], .cmpEwGw (.mem (.disp8 .bp 0)) .SP),
  ([0x3A, 0x14], .cmpGbEb .DL (.mem (.plain .si))),
  ([0x3B, 0x82, 0x01, 0x00], .cmpGwEw .AX (.mem (.disp16 .bpSi 1))),
  ([0x3C, 0x3C], .cmpAlImm8 0x3c),
  ([0x3D, 0x01, 0x80], .cmpAxImm16 0x8001)]

theorem test_decode_alu_two : reads words_alu_two = expected words_alu_two := by rfl

/-- Words of the groups 80, 81, 83 (R125). -/
def words_alu_immediate : List (List Byte × Instr) := [
  ([0x80, 0xC0, 0xFF], .addEbImm8 (.reg .AL) 0xff),
  ([0x81, 0x05, 0x01, 0x80], .addEwImm16 (.mem (.plain .di)) 0x8001),
  ([0x83, 0xC4, 0x01], .addEwSimm8 (.reg .SP) 0x1),
  ([0x80, 0x49, 0x80, 0x7F], .orEbImm8 (.mem (.disp8 .bxDi 0x80)) 0x7f),
  ([0x81, 0xC8, 0xFE, 0xFF], .orEwImm16 (.reg .AX) 0xfffe),
  ([0x83, 0x4D, 0x03, 0xFF], .orEwSimm8 (.mem (.disp8 .di 3)) 0xff),
  ([0x80, 0xD4, 0x3C], .adcEbImm8 (.reg .AH) 0x3c),
  ([0x81, 0x91, 0x00, 0x01, 0x01, 0x80], .adcEwImm16 (.mem (.disp16 .bxDi 0x0100)) 0x8001),
  ([0x83, 0xD0, 0x7F], .adcEwSimm8 (.reg .AX) 0x7f),
  ([0x80, 0x9D, 0xFF, 0x7F, 0x80], .sbbEbImm8 (.mem (.disp16 .di 0x7FFF)) 0x80),
  ([0x81, 0xDC, 0xFE, 0xFF], .sbbEwImm16 (.reg .SP) 0xfffe),
  ([0x83, 0x19, 0x3C], .sbbEwSimm8 (.mem (.plain .bxDi)) 0x3c),
  ([0x80, 0xE0, 0x01], .andEbImm8 (.reg .AL) 0x1),
  ([0x81, 0x25, 0x01, 0x80], .andEwImm16 (.mem (.plain .di)) 0x8001),
  ([0x83, 0xE4, 0x80], .andEwSimm8 (.reg .SP) 0x80),
  ([0x80, 0x69, 0x80, 0xFF], .subEbImm8 (.mem (.disp8 .bxDi 0x80)) 0xff),
  ([0x81, 0xE8, 0xFE, 0xFF], .subEwImm16 (.reg .AX) 0xfffe),
  ([0x83, 0x6D, 0x03, 0x01], .subEwSimm8 (.mem (.disp8 .di 3)) 0x1),
  ([0x80, 0xF4, 0x7F], .xorEbImm8 (.reg .AH) 0x7f),
  ([0x81, 0xB1, 0x00, 0x01, 0x01, 0x80], .xorEwImm16 (.mem (.disp16 .bxDi 0x0100)) 0x8001),
  ([0x83, 0xF0, 0xFF], .xorEwSimm8 (.reg .AX) 0xff),
  ([0x80, 0xBD, 0xFF, 0x7F, 0x3C], .cmpEbImm8 (.mem (.disp16 .di 0x7FFF)) 0x3c),
  ([0x81, 0xFC, 0xFE, 0xFF], .cmpEwImm16 (.reg .SP) 0xfffe),
  ([0x83, 0x39, 0x7F], .cmpEwSimm8 (.mem (.plain .bxDi)) 0x7f)]

theorem test_decode_alu_immediate : reads words_alu_immediate = expected words_alu_immediate := by rfl

/-- Words of TEST, XCHG, NOP. -/
def words_test_xchg : List (List Byte × Instr) := [
  ([0x84, 0xA6, 0x08, 0x00], .testEbGb (.mem (.disp16 .bp 8)) .AH),
  ([0x85, 0x54, 0x02], .testEwGw (.mem (.disp8 .si 2)) .DX),
  ([0xA8, 0x81], .testAlImm8 0x81),
  ([0xA9, 0x34, 0x12], .testAxImm16 0x1234),
  ([0xF6, 0xC4, 0x40], .testEbImm8 (.reg .AH) 0x40),
  ([0xF7, 0x02, 0x00, 0x80], .testEwImm16 (.mem (.plain .bpSi)) 0x8000),
  ([0x86, 0xB0, 0xCD, 0xAB], .xchgGbEb .DH (.mem (.disp16 .bxSi 0xABCD))),
  ([0x87, 0x27], .xchgGwEw .SP (.mem (.plain .bx))),
  ([0x93], .xchgAxReg16 .BX),
  ([0x90], .nop)]

theorem test_decode_test_xchg : reads words_test_xchg = expected words_test_xchg := by rfl

/-- Words of the moves (41_mov_data.md). -/
def words_mov : List (List Byte × Instr) := [
  ([0x88, 0x94, 0x00, 0x80], .movEbGb (.mem (.disp16 .si 0x8000)) .DL),
  ([0x89, 0x42, 0xFE], .movEwGw (.mem (.disp8 .bpSi 0xFE)) .AX),
  ([0x8A, 0x30], .movGbEb .DH (.mem (.plain .bxSi))),
  ([0x8B, 0x66, 0x00], .movGwEw .SP (.mem (.disp8 .bp 0))),
  ([0x8C, 0xD8], .movEwSw (.reg .AX) 3),
  ([0x8C, 0x6F, 0x04], .movEwSw (.mem (.disp8 .bx 4)) 5),
  ([0x8E, 0xC3], .movSwEw 0 (.reg .BX)),
  ([0x8E, 0x16, 0x02, 0x01], .movSwEw 2 (.mem (.absolute 0x0102))),
  ([0xA0, 0x10, 0x20], .movAlMoffs16 0x2010),
  ([0xA1, 0x10, 0x20], .movAxMoffs16 0x2010),
  ([0xA2, 0x10, 0x20], .movMoffs16Al 0x2010),
  ([0xA3, 0x10, 0x20], .movMoffs16Ax 0x2010),
  ([0xB4, 0x4C], .movReg8Imm8 .AH 0x4C),
  ([0xBC, 0x00, 0x08], .movReg16Imm16 .SP 0x0800),
  ([0xC6, 0x85, 0xFF, 0x7F, 0xCC], .movEbImm8 (.mem (.disp16 .di 0x7FFF)) 0xCC),
  ([0xC7, 0x04, 0xCC, 0x90], .movEwImm16 (.mem (.plain .si)) 0x90CC),
  ([0x8D, 0x5B, 0x01], .leaGwM .BX (.disp8 .bpDi 1)),
  ([0xC4, 0xBA, 0x01, 0x00], .lesGwM .DI (.disp16 .bpSi 1)),
  ([0xC5, 0x31], .ldsGwM .SI (.plain .bxDi)),
  ([0xD7], .xlat),
  ([0x98], .cbw),
  ([0x99], .cwd)]

theorem test_decode_mov : reads words_mov = expected words_mov := by rfl

/-- Words of INC, DEC and the stack (42_incdec_stack.md). -/
def words_inc_dec_stack : List (List Byte × Instr) := [
  ([0x46], .incReg16 .SI),
  ([0x4D], .decReg16 .BP),
  ([0x51], .pushReg16 .CX),
  ([0x5C], .popReg16 .SP),
  ([0xFE, 0x40, 0x7F], .incEb (.mem (.disp8 .bxSi 0x7F))),
  ([0xFE, 0xC8], .decEb (.reg .AL)),
  ([0xFF, 0x86, 0x08, 0x00], .incEw (.mem (.disp16 .bp 8))),
  ([0xFF, 0x0D], .decEw (.mem (.plain .di))),
  ([0xFF, 0x74, 0x02], .pushEw (.mem (.disp8 .si 2))),
  ([0x8F, 0xC4], .popEw (.reg .SP)),
  ([0x06], .pushEs),
  ([0x0E], .pushCs),
  ([0x16], .pushSs),
  ([0x1E], .pushDs),
  ([0x07], .popEs),
  ([0x17], .popSs),
  ([0x1F], .popDs),
  ([0x60], .pusha),
  ([0x61], .popa),
  ([0x9C], .pushf),
  ([0x9D], .popf),
  ([0xC9], .leave),
  ([0x68, 0xEF, 0xBE], .pushImm16 0xBEEF),
  ([0x6A, 0xFF], .pushSimm8 0xFF),
  ([0xC8, 0x04, 0x00, 0x01], .enterImm16Imm8 4 1)]

theorem test_decode_inc_dec_stack : reads words_inc_dec_stack = expected words_inc_dec_stack := by rfl

/-- Words of the groups C0, C1, D0 to D3 (43_shift_rotate.md). -/
def words_shift_rotate : List (List Byte × Instr) := [
  ([0xC0, 0x02, 0x3C], .rolEbImm8 (.mem (.plain .bpSi)) 0x3c),
  ([0xC1, 0x80, 0xCD, 0xAB, 0x01], .rolEwImm8 (.mem (.disp16 .bxSi 0xABCD)) 0x1),
  ([0xD0, 0x07], .rolEb1 (.mem (.plain .bx))),
  ([0xD1, 0x45, 0x03], .rolEw1 (.mem (.disp8 .di 3))),
  ([0xD2, 0x84, 0x00, 0x80], .rolEbCl (.mem (.disp16 .si 0x8000))),
  ([0xD3, 0xC4], .rolEwCl (.reg .SP)),
  ([0xC0, 0x4A, 0xFE, 0xFF], .rorEbImm8 (.mem (.disp8 .bpSi 0xFE)) 0xff),
  ([0xC1, 0x08, 0x3C], .rorEwImm8 (.mem (.plain .bxSi)) 0x3c),
  ([0xD0, 0x4E, 0x00], .rorEb1 (.mem (.disp8 .bp 0))),
  ([0xD1, 0x8D, 0xFF, 0x7F], .rorEw1 (.mem (.disp16 .di 0x7FFF))),
  ([0xD2, 0x0C], .rorEbCl (.mem (.plain .si))),
  ([0xD3, 0xCC], .rorEwCl (.reg .SP)),
  ([0xC0, 0x92, 0x01, 0x00, 0x80], .rclEbImm8 (.mem (.disp16 .bpSi 1)) 0x80),
  ([0xC1, 0x50, 0x7F, 0xFF], .rclEwImm8 (.mem (.disp8 .bxSi 0x7F)) 0xff),
  ([0xD0, 0x96, 0x08, 0x00], .rclEb1 (.mem (.disp16 .bp 8))),
  ([0xD1, 0x15], .rclEw1 (.mem (.plain .di))),
  ([0xD2, 0x54, 0x02], .rclEbCl (.mem (.disp8 .si 2))),
  ([0xD3, 0xD4], .rclEwCl (.reg .SP)),
  ([0xC0, 0x1A, 0x7F], .rcrEbImm8 (.mem (.plain .bpSi)) 0x7f),
  ([0xC1, 0x98, 0xCD, 0xAB, 0x80], .rcrEwImm8 (.mem (.disp16 .bxSi 0xABCD)) 0x80),
  ([0xD0, 0x1F], .rcrEb1 (.mem (.plain .bx))),
  ([0xD1, 0x5D, 0x03], .rcrEw1 (.mem (.disp8 .di 3))),
  ([0xD2, 0x9C, 0x00, 0x80], .rcrEbCl (.mem (.disp16 .si 0x8000))),
  ([0xD3, 0xDC], .rcrEwCl (.reg .SP)),
  ([0xC0, 0x62, 0xFE, 0x01], .shlEbImm8 (.mem (.disp8 .bpSi 0xFE)) 0x1),
  ([0xC1, 0x20, 0x7F], .shlEwImm8 (.mem (.plain .bxSi)) 0x7f),
  ([0xD0, 0x66, 0x00], .shlEb1 (.mem (.disp8 .bp 0))),
  ([0xD1, 0xA5, 0xFF, 0x7F], .shlEw1 (.mem (.disp16 .di 0x7FFF))),
  ([0xD2, 0x24], .shlEbCl (.mem (.plain .si))),
  ([0xD3, 0xE4], .shlEwCl (.reg .SP)),
  ([0xC0, 0xAA, 0x01, 0x00, 0x3C], .shrEbImm8 (.mem (.disp16 .bpSi 1)) 0x3c),
  ([0xC1, 0x68, 0x7F, 0x01], .shrEwImm8 (.mem (.disp8 .bxSi 0x7F)) 0x1),
  ([0xD0, 0xAE, 0x08, 0x00], .shrEb1 (.mem (.disp16 .bp 8))),
  ([0xD1, 0x2D], .shrEw1 (.mem (.plain .di))),
  ([0xD2, 0x6C, 0x02], .shrEbCl (.mem (.disp8 .si 2))),
  ([0xD3, 0xEC], .shrEwCl (.reg .SP)),
  ([0xC0, 0x3A, 0xFF], .sarEbImm8 (.mem (.plain .bpSi)) 0xff),
  ([0xC1, 0xB8, 0xCD, 0xAB, 0x3C], .sarEwImm8 (.mem (.disp16 .bxSi 0xABCD)) 0x3c),
  ([0xD0, 0x3F], .sarEb1 (.mem (.plain .bx))),
  ([0xD1, 0x7D, 0x03], .sarEw1 (.mem (.disp8 .di 3))),
  ([0xD2, 0xBC, 0x00, 0x80], .sarEbCl (.mem (.disp16 .si 0x8000))),
  ([0xD3, 0xFC], .sarEwCl (.reg .SP))]

theorem test_decode_shift_rotate : reads words_shift_rotate = expected words_shift_rotate := by rfl

/-- Words of NOT, NEG, MUL, IMUL, DIV, IDIV (45_unary_muldiv.md). -/
def words_mul_div : List (List Byte × Instr) := [
  ([0xF6, 0x52, 0xFE], .notEb (.mem (.disp8 .bpSi 0xFE))),
  ([0xF7, 0x91, 0x00, 0x01], .notEw (.mem (.disp16 .bxDi 0x0100))),
  ([0xF6, 0x18], .negEb (.mem (.plain .bxSi))),
  ([0xF7, 0xD8], .negEw (.reg .AX)),
  ([0xF6, 0x66, 0x00], .mulEb (.mem (.disp8 .bp 0))),
  ([0xF7, 0xA5, 0xFF, 0x7F], .mulEw (.mem (.disp16 .di 0x7FFF))),
  ([0xF6, 0x2C], .imulEb (.mem (.plain .si))),
  ([0xF7, 0xEC], .imulEw (.reg .SP)),
  ([0xF6, 0xB2, 0x01, 0x00], .divEb (.mem (.disp16 .bpSi 1))),
  ([0xF7, 0x31], .divEw (.mem (.plain .bxDi))),
  ([0xF6, 0x78, 0x7F], .idivEb (.mem (.disp8 .bxSi 0x7F))),
  ([0xF7, 0xF8], .idivEw (.reg .AX)),
  ([0x69, 0x96, 0x08, 0x00, 0x00, 0x01], .imulGwEwImm16 .DX (.mem (.disp16 .bp 8)) 0x0100),
  ([0x6B, 0x0D, 0xFB], .imulGwEwSimm8 .CX (.mem (.plain .di)) 0xFB)]

theorem test_decode_mul_div : reads words_mul_div = expected words_mul_div := by rfl

/-- Words of the string instructions and their prefix bytes (44_string.md). -/
def words_strings : List (List Byte × Instr) := [
  ([0xA4], .movsb),
  ([0xF2, 0xA4], .repnzMovsb),
  ([0xF3, 0xA4], .repMovsb),
  ([0xA5], .movsw),
  ([0xF2, 0xA5], .repnzMovsw),
  ([0xF3, 0xA5], .repMovsw),
  ([0xA6], .cmpsb),
  ([0xF2, 0xA6], .repnzCmpsb),
  ([0xF3, 0xA6], .repzCmpsb),
  ([0xA7], .cmpsw),
  ([0xF2, 0xA7], .repnzCmpsw),
  ([0xF3, 0xA7], .repzCmpsw),
  ([0xAA], .stosb),
  ([0xF2, 0xAA], .repnzStosb),
  ([0xF3, 0xAA], .repStosb),
  ([0xAB], .stosw),
  ([0xF2, 0xAB], .repnzStosw),
  ([0xF3, 0xAB], .repStosw),
  ([0xAC], .lodsb),
  ([0xF2, 0xAC], .repnzLodsb),
  ([0xF3, 0xAC], .repLodsb),
  ([0xAD], .lodsw),
  ([0xF2, 0xAD], .repnzLodsw),
  ([0xF3, 0xAD], .repLodsw),
  ([0xAE], .scasb),
  ([0xF2, 0xAE], .repnzScasb),
  ([0xF3, 0xAE], .repzScasb),
  ([0xAF], .scasw),
  ([0xF2, 0xAF], .repnzScasw),
  ([0xF3, 0xAF], .repzScasw)]

theorem test_decode_strings : reads words_strings = expected words_strings := by rfl

/-- Words of control transfer (46_control.md). -/
def words_jumps : List (List Byte × Instr) := [
  ([0x70, 0xF0], .joRel8 0xf0),
  ([0x71, 0xF1], .jnoRel8 0xf1),
  ([0x72, 0xF2], .jbRel8 0xf2),
  ([0x73, 0xF3], .jnbRel8 0xf3),
  ([0x74, 0xF4], .jzRel8 0xf4),
  ([0x75, 0xF5], .jnzRel8 0xf5),
  ([0x76, 0xF6], .jbeRel8 0xf6),
  ([0x77, 0xF7], .jaRel8 0xf7),
  ([0x78, 0xF8], .jsRel8 0xf8),
  ([0x79, 0xF9], .jnsRel8 0xf9),
  ([0x7A, 0xFA], .jpRel8 0xfa),
  ([0x7B, 0xFB], .jnpRel8 0xfb),
  ([0x7C, 0xFC], .jlRel8 0xfc),
  ([0x7D, 0xFD], .jgeRel8 0xfd),
  ([0x7E, 0xFE], .jleRel8 0xfe),
  ([0x7F, 0xFF], .jgRel8 0xff),
  ([0xE0, 0x10], .loopnzRel8 0x10),
  ([0xE1, 0x11], .loopzRel8 0x11),
  ([0xE2, 0x12], .loopRel8 0x12),
  ([0xE3, 0x13], .jcxzRel8 0x13),
  ([0xE8, 0xFE, 0xFF], .callRel16 0xFFFE),
  ([0xE9, 0x00, 0x01], .jmpRel16 0x0100),
  ([0xEB, 0xFE], .jmpRel8 0xFE),
  ([0x9A, 0x40, 0x00, 0x00, 0x10], .callPtr1616 0x0040 0x1000),
  ([0xEA, 0x01, 0x02, 0x03, 0x04], .jmpPtr1616 0x0201 0x0403),
  ([0xFF, 0x54, 0x02], .callEw (.mem (.disp8 .si 2))),
  ([0xFF, 0xE4], .jmpEw (.reg .SP)),
  ([0xFF, 0x1A], .callFarM (.plain .bpSi)),
  ([0xFF, 0x69, 0x80], .jmpFarM (.disp8 .bxDi 0x80)),
  ([0xC2, 0x02, 0x00], .retImm16 2),
  ([0xC3], .ret),
  ([0xCA, 0x00, 0x02], .retfImm16 0x0200),
  ([0xCB], .retf),
  ([0xCC], .int3),
  ([0xCD, 0x21], .intImm8 0x21),
  ([0xCD, 0x86], .int86),
  ([0xCD, 0x87], .int87),
  ([0xCD, 0x88], .int88),
  ([0xCD, 0x89], .intImm8 0x89),
  ([0xCE], .into),
  ([0xCF], .iret)]

theorem test_decode_jumps : reads words_jumps = expected words_jumps := by rfl

/-- Words of the flag instructions (47_flag_ops.md). -/
def words_flag_instructions : List (List Byte × Instr) := [
  ([0x9E], .sahf),
  ([0x9F], .lahf),
  ([0xF5], .cmc),
  ([0xF8], .clc),
  ([0xF9], .stc),
  ([0xFA], .cli),
  ([0xFB], .sti),
  ([0xFC], .cld),
  ([0xFD], .std)]

theorem test_decode_flag_instructions : reads words_flag_instructions = expected words_flag_instructions := by rfl

/-- Words of NRG and the rows that fault (48_game_and_unsupported.md). -/
def words_faults : List (List Byte × Instr) := [
  ([0x9B, 0x9B, 0x9B, 0x9B], .nrg),
  ([0x9B, 0x90], .nrgBroken 0 0x90),
  ([0x9B, 0x9B, 0x00], .nrgBroken 1 0x00),
  ([0x9B, 0x9B, 0x9B, 0x9C], .nrgBroken 2 0x9C),
  ([0x0F], .invalid0F),
  ([0x26], .esOverride),
  ([0x2E], .csOverride),
  ([0x36], .ssOverride),
  ([0x3E], .dsOverride),
  ([0x27], .daa),
  ([0x2F], .das),
  ([0x37], .aaa),
  ([0x3F], .aas),
  ([0xD4], .aam),
  ([0xD5], .aad),
  ([0x62], .bound),
  ([0x63], .invalid63),
  ([0x64], .invalid64),
  ([0x65], .invalid65),
  ([0x66], .invalid66),
  ([0x67], .invalid67),
  ([0x6C], .insb),
  ([0x6D], .insw),
  ([0x6E], .outsb),
  ([0x6F], .outsw),
  ([0x82], .invalid82),
  ([0xD6], .invalidD6),
  ([0xE4], .inAlImm8),
  ([0xE5], .inAxImm8),
  ([0xE6], .outImm8Al),
  ([0xE7], .outImm8Ax),
  ([0xEC], .inAlDx),
  ([0xED], .inAxDx),
  ([0xEE], .outDxAl),
  ([0xEF], .outDxAx),
  ([0xF0], .lock),
  ([0xF1], .invalidF1),
  ([0xF4], .hlt),
  ([0xDD], .esc 5),
  ([0xF2, 0xC3], .repnzBroken 0xC3),
  ([0xF3, 0x90], .repBroken 0x90),
  ([0x8D, 0xCA], .leaRegister 1 2),
  ([0xC4, 0xF5], .lesRegister 6 5),
  ([0xC5, 0xE3], .ldsRegister 4 3),
  ([0xFF, 0xDA], .callFarRegister 2),
  ([0xFF, 0xED], .jmpFarRegister 5)]

theorem test_decode_faults : reads words_faults = expected words_faults := by rfl

/-- Words of the group rows without an instruction (R410). -/
def words_faulting_groups : List (List Byte × Instr) := [
  ([0x8F, 0x48], .invalid8Fs1 1 0),
  ([0x8F, 0x91], .invalid8Fs2 2 1),
  ([0x8F, 0xDA], .invalid8Fs3 3 2),
  ([0x8F, 0x23], .invalid8Fs4 0 3),
  ([0x8F, 0x6C], .invalid8Fs5 1 4),
  ([0x8F, 0xB5], .invalid8Fs6 2 5),
  ([0x8F, 0xFE], .invalid8Fs7 3 6),
  ([0xC0, 0xB6], .invalidC0s6 2 6),
  ([0xC1, 0xB7], .invalidC1s6 2 7),
  ([0xD0, 0xB6], .invalidD0s6 2 6),
  ([0xD1, 0xB7], .invalidD1s6 2 7),
  ([0xD2, 0xB0], .invalidD2s6 2 0),
  ([0xD3, 0xB1], .invalidD3s6 2 1),
  ([0xC6, 0x4F], .invalidC6s1 1 7),
  ([0xC6, 0x90], .invalidC6s2 2 0),
  ([0xC6, 0xD9], .invalidC6s3 3 1),
  ([0xC6, 0x22], .invalidC6s4 0 2),
  ([0xC6, 0x6B], .invalidC6s5 1 3),
  ([0xC6, 0xB4], .invalidC6s6 2 4),
  ([0xC6, 0xFD], .invalidC6s7 3 5),
  ([0xC7, 0x48], .invalidC7s1 1 0),
  ([0xC7, 0x91], .invalidC7s2 2 1),
  ([0xC7, 0xDA], .invalidC7s3 3 2),
  ([0xC7, 0x23], .invalidC7s4 0 3),
  ([0xC7, 0x6C], .invalidC7s5 1 4),
  ([0xC7, 0xB5], .invalidC7s6 2 5),
  ([0xC7, 0xFE], .invalidC7s7 3 6),
  ([0xF6, 0x4F], .invalidF6s1 1 7),
  ([0xF7, 0x48], .invalidF7s1 1 0),
  ([0xFE, 0x90], .invalidFEs2 2 0),
  ([0xFE, 0xD9], .invalidFEs3 3 1),
  ([0xFE, 0x22], .invalidFEs4 0 2),
  ([0xFE, 0x6B], .invalidFEs5 1 3),
  ([0xFE, 0xB4], .invalidFEs6 2 4),
  ([0xFE, 0xFD], .invalidFEs7 3 5),
  ([0xFF, 0xFE], .invalidFFs7 3 6)]

theorem test_decode_faulting_groups : reads words_faulting_groups = expected words_faulting_groups := by rfl

/-- Table words count from the first byte as the most significant (R137, log 1); operand bytes above them are 0. -/
theorem test_decode_table_word :
    [decodeTableWord 8 0x05, decodeTableWord 16 0xFF30, decodeTableWord 16 0xCD86, decodeTableWord 32 0x9B9B9B9B] =
      [some (.addAxImm16 0), some (.pushEw (.mem (.plain .bxSi))), some .int86, some .nrg] := by
  rfl

/-! ### One instruction at a time: vectors of 95_test_vectors.md -/

/-- Hart 0 of the vectors' harness state, which differs from reset in AX and IP (95_test_vectors.md section 0). -/
def harnessHart : Hart :=
  { Hart.atReset Config.hardware ⟨"warrior0", 1, 0x0400, 0, 0x20400, 0x20000⟩
      [⟨0x10000, 0⟩, ⟨0x20000, 7⟩, ⟨0x20C00, 3⟩] with
    AX := 0, IP := 0x0100 }

/-- A block in which it is this hart's turn, with another living hart and reset's memory. -/
def stateOf (h : Hart) : State :=
  { State.reset with harts := h :: State.reset.harts.drop 1, phase := .mandatory, round := 1, events := [] }

/-- The hart is dead and both counts say so (R434). -/
def died (s : State) (h : Hart) : Bool := !h.alive && s.aliveCount == 1 && s.deathCount == 1

/-- Runs the bytes at CS 0x1000 from a changed harness state with bytes placed in memory, and checks the block and the
hart afterwards. -/
def vector (bytes : List Byte) (start : Hart → Hart) (image : List (Nat × List Byte)) (check : State → Hart → Bool) :
    Bool :=
  let h := start harnessHart
  let mem := image.foldl (fun m p => m.writeBytes Config.hardware p.1 p.2)
    (placeBytes Config.hardware ⟨[]⟩ 0x1000 h.IP bytes)
  match ({ stateOf h with mem := mem } : State).runInstr h with
  | .next t =>
    match t.harts[0]? with
    | some g => check t g
    | none => false
  | .fault _ => false
  | .refused _ => false

/-- Access order and faults (R75 to R88): vectors V20. -/
theorem test_vectors_memory_access : [
    -- V20-60: `89 07`, MOV [BX], AX
    vector [0x89, 0x07] (fun h => { h with AX := 0x1234, DS := 0x2040, BX := 0x07FF }) []
      (fun s h => s.mem.read s.params 0x20BFF == 0x34 && s.mem.read s.params 0x20C00 == 0x00 && s.events.head? ==
        some (.death 0 (.memoryFault .write 0x20C00)) && died s h && s.events.tail.reverse == [.write 0x20BFF]),
    -- V20-61: `8B 07`, MOV AX, [BX]
    vector [0x8B, 0x07] (fun h => { h with AX := 0x5555, DS := 0x2040, BX := 0x07FF }) []
      (fun s h => s.events.head? == some (.death 0 (.memoryFault .read 0x20C00)) && died s h && h.AX == 0x5555),
    -- V20-63: `8B 07`, MOV AX, [BX]
    vector [0x8B, 0x07] (fun h => { h with AX := 0x5555, DS := 0xFFFF, BX := 0x0010 }) []
      (fun s h => s.events.head? == some (.death 0 (.memoryFault .read 0x00000)) && died s h && h.AX == 0x5555),
    -- V20-65: `EB FE`, JMP $
    vector [0xEB, 0xFE] (fun h => { h with CS := 0x2000 }) []
      (fun s h => s.events.head? == some (.death 0 (.memoryFault .execute 0x20100)) && died s h && h.IP == 0x100),
    -- V20-66: `B8 34 12`, MOV AX, 0x1234
    vector [0xB8, 0x34, 0x12] (fun h => { h with IP := 0xFFFE }) []
      (fun _ h => h.alive && h.AX == 0x1234 && h.IP == 1),
    -- V20-67: `C6 06 02 01 90`, MOV byte [0x0102], 0x90
    vector [0xC6, 0x06, 0x02, 0x01, 0x90] (fun h => h) []
      (fun s h => s.mem.read s.params 0x10100 == 0xC6 && s.mem.read s.params 0x10101 == 0x06 && s.mem.read s.params
        0x10102 == 0x90 && s.mem.read s.params 0x10103 == 0x01 && s.mem.read s.params 0x10104 == 0x90 && h.alive &&
        h.IP == 0x105 && s.events.reverse == [.write 0x10102])
  ].all id = true := by
  decide +kernel

/-- ModRM and displacements (R113 to R119): vectors V30. -/
theorem test_vectors_operands : [
    -- V30-7: `8D 06 00 03`, LEA AX, [0x0300]
    vector [0x8D, 0x06, 0x00, 0x03] (fun h => { h with BX := 0x0100, BP := 0x0200, SI := 0x0010, DI := 0x0020 }) []
      (fun _ h => h.alive && h.AX == 0x300 && h.IP == 0x104),
    -- V30-22: `8D 85 00 10`, LEA AX, [DI+0x1000]
    vector [0x8D, 0x85, 0x00, 0x10] (fun h => { h with BX := 0x0100, BP := 0x0200, SI := 0x0010, DI := 0x0020 }) []
      (fun _ h => h.alive && h.AX == 0x1020 && h.IP == 0x104),
    -- V30-30: `8B 47 80`, MOV AX, [BX-128]
    vector [0x8B, 0x47, 0x80] (fun h => { h with BX := 0x0040 }) [(0x1FFC0, [0x78, 0x56])]
      (fun _ h => h.alive && h.AX == 0x5678 && h.IP == 0x103),
    -- V30-31: `81 84 00 01 34 12`, ADD word [SI+0x0100], 0x1234
    vector [0x81, 0x84, 0x00, 0x01, 0x34, 0x12] (fun h => { h with SI := 0x0100 }) [(0x10200, [0x00, 0x00])]
      (fun s h => s.mem.read s.params 0x10200 == 0x34 && s.mem.read s.params 0x10201 == 0x12 && h.alive && h.IP ==
        0x106 && s.events.reverse == [.write 0x10200, .write 0x10201])
  ].all id = true := by
  decide +kernel

/-- ALU: vectors V40. -/
theorem test_vectors_alu : [
    -- V40-2: `01 D8`, ADD AX, BX
    vector [0x01, 0xD8] (fun h => { h with AX := 0xFFFF, BX := 1 }) []
      (fun _ h => h.alive && h.AX == 0 && h.flags.CF && h.flags.PF && h.flags.AF && h.flags.ZF && !h.flags.SF &&
        !h.flags.OF),
    -- V40-3: `02 C4`, ADD AL, AH
    vector [0x02, 0xC4] (fun h => { h with AX := 0x7F01 }) []
      (fun _ h => h.alive && h.AX == 0x7F80 && !h.flags.CF && !h.flags.PF && h.flags.AF && !h.flags.ZF && h.flags.SF
        && h.flags.OF),
    -- V40-6: `04 80`, ADD AL, 0x80
    vector [0x04, 0x80] (fun h => { h with AX := 0x0080 }) []
      (fun _ h => h.alive && h.get8 .AL == 0 && h.flags.CF && h.flags.PF && !h.flags.AF && h.flags.ZF && !h.flags.SF
        && h.flags.OF),
    -- V40-8: `83 C0 FF`, ADD AX, -1 (simm8)
    vector [0x83, 0xC0, 0xFF] (fun h => { h with AX := 1 }) []
      (fun _ h => h.alive && h.AX == 0 && h.flags.CF && h.flags.PF && h.flags.AF && h.flags.ZF && !h.flags.SF &&
        !h.flags.OF),
    -- V40-12: `08 D8`, OR AL, BL
    vector [0x08, 0xD8] (fun h => { h with BX := 0, flags := Flags.ofWord 0x0811 }) []
      (fun _ h => h.alive && h.get8 .AL == 0 && !h.flags.CF && h.flags.PF && h.flags.ZF && !h.flags.SF &&
        !h.flags.OF),
    -- V40-15: `15 00 00`, ADC AX, 0
    vector [0x15, 0x00, 0x00] (fun h => { h with AX := 0x7FFF, flags := Flags.ofWord 0x0001 }) []
      (fun _ h => h.alive && h.AX == 0x8000 && !h.flags.CF && h.flags.PF && h.flags.AF && !h.flags.ZF && h.flags.SF
        && h.flags.OF),
    -- V40-18: `19 C0`, SBB AX, AX
    vector [0x19, 0xC0] (fun h => { h with AX := 0x1234, flags := Flags.ofWord 0x0001 }) []
      (fun _ h => h.alive && h.AX == 0xFFFF && h.flags.CF && h.flags.PF && h.flags.AF && !h.flags.ZF && h.flags.SF
        && !h.flags.OF),
    -- V40-21: `21 D8`, AND AX, BX
    vector [0x21, 0xD8] (fun h => { h with AX := 0xFF00, BX := 0x8001 }) []
      (fun _ h => h.alive && h.AX == 0x8000 && !h.flags.CF && h.flags.PF && !h.flags.ZF && h.flags.SF &&
        !h.flags.OF),
    -- V40-22: `2C 01`, SUB AL, 1
    vector [0x2C, 0x01] (fun h => { h with AX := 0x0080 }) []
      (fun _ h => h.alive && h.get8 .AL == 0x7F && !h.flags.CF && !h.flags.PF && h.flags.AF && !h.flags.ZF &&
        !h.flags.SF && h.flags.OF),
    -- V40-24: `2B 06 00 03`, SUB AX, [0x0300]
    vector [0x2B, 0x06, 0x00, 0x03] (fun h => { h with AX := 5 }) [(0x10300, [0x06, 0x00])]
      (fun _ h => h.alive && h.AX == 0xFFFF && h.flags.CF && h.flags.PF && h.flags.AF && !h.flags.ZF && h.flags.SF
        && !h.flags.OF && h.IP == 0x104),
    -- V40-26: `34 FF`, XOR AL, 0xFF
    vector [0x34, 0xFF] (fun h => { h with AX := 0x0055 }) []
      (fun _ h => h.alive && h.get8 .AL == 0xAA && !h.flags.CF && h.flags.PF && !h.flags.ZF && h.flags.SF &&
        !h.flags.OF),
    -- V40-28: `38 D8`, CMP AL, BL
    vector [0x38, 0xD8] (fun h => { h with AX := 1, BX := 2 }) []
      (fun _ h => h.alive && h.get8 .AL == 1 && h.get8 .BL == 2 && h.flags.CF && h.flags.PF && h.flags.AF &&
        !h.flags.ZF && h.flags.SF && !h.flags.OF),
    -- V40-33: `84 C0`, TEST AL, AL
    vector [0x84, 0xC0] (fun h => { h with AX := 0x0080, flags := Flags.ofWord 0x0001 }) []
      (fun _ h => h.alive && h.get8 .AL == 0x80 && !h.flags.CF && !h.flags.PF && !h.flags.ZF && h.flags.SF &&
        !h.flags.OF)
  ].all id = true := by
  decide +kernel

/-- Moves: vectors V41. -/
theorem test_vectors_moves : [
    -- V41-2: `89 07`, MOV [BX], AX
    vector [0x89, 0x07] (fun h => { h with AX := 0xBEEF, BX := 0xFFFF }) []
      (fun s h => s.mem.read s.params 0x1FFFF == 0xEF && s.mem.read s.params 0x10000 == 0xBE && h.alive &&
        s.events.reverse == [.write 0x1FFFF, .write 0x10000]),
    -- V41-4: `8B 82 00 FF`, MOV AX, [BP+SI+0xFF00]
    vector [0x8B, 0x82, 0x00, 0xFF] (fun h => { h with BP := 0x0100, SI := 0x0100 }) [(0x20500, [0x78, 0x56])]
      (fun _ h => h.alive && h.AX == 0x5678 && h.IP == 0x104),
    -- V41-14: `8C F8`, MOV AX, sreg[7]
    vector [0x8C, 0xF8] (fun h => { h with DS := 0x3333 }) []
      (fun _ h => h.alive && h.AX == 0x3333),
    -- V41-18: `8E C8`, MOV CS, AX
    vector [0x8E, 0xC8] (fun h => { h with AX := 0x1010 }) []
      (fun _ h => h.alive && h.CS == 0x1010 && h.IP == 0x102),
    -- V41-22: `94`, XCHG AX, SP
    vector [0x94] (fun h => { h with AX := 0x0400 }) []
      (fun _ h => h.alive && h.AX == 0x800 && h.SP == 0x400),
    -- V41-24: `87 07`, XCHG [BX], AX
    vector [0x87, 0x07] (fun h => { h with AX := 0x1111, BX := 0x0200 }) [(0x10200, [0x22, 0x22])]
      (fun s h => s.mem.read s.params 0x10200 == 0x11 && s.mem.read s.params 0x10201 == 0x11 && h.alive && h.AX ==
        0x2222 && s.events.reverse == [.write 0x10200, .write 0x10201]),
    -- V41-29: `D7`, XLAT
    vector [0xD7] (fun h => { h with AX := 2, BX := 0xFFFF }) [(0x10001, [0x7E])]
      (fun _ h => h.alive && h.get8 .AL == 0x7E),
    -- V41-30: `98`, CBW
    vector [0x98] (fun h => { h with AX := 0x1280 }) []
      (fun _ h => h.alive && h.AX == 0xFF80),
    -- V41-33: `99`, CWD
    vector [0x99] (fun h => { h with AX := 0x8000 }) []
      (fun _ h => h.alive && h.AX == 0x8000 && h.DX == 0xFFFF),
    -- V41-34: `C4 3E 00 04`, LES DI, [0x0400]
    vector [0xC4, 0x3E, 0x00, 0x04] (fun h => h) [(0x10400, [0x10, 0x00, 0x00, 0x20])]
      (fun _ h => h.alive && h.DI == 0x10 && h.ES == 0x2000),
    -- V41-35: `C5 37`, LDS SI, [BX]
    vector [0xC5, 0x37] (fun h => { h with BX := 0x0200 }) [(0x10200, [0x34, 0x12, 0x00, 0x30])]
      (fun _ h => h.alive && h.SI == 0x1234 && h.DS == 0x3000),
    -- V41-36: `C4 C0`, LES AX, AX
    vector [0xC4, 0xC0] (fun h => h) []
      (fun s h => s.events.head? == some (.death 0 (.invalidOpcode)) && died s h && h.IP == 0x102)
  ].all id = true := by
  decide +kernel

/-- INC, DEC and the stack: vectors V42. -/
theorem test_vectors_stack : [
    -- V42-1: `40`, INC AX
    vector [0x40] (fun h => { h with AX := 0xFFFF }) []
      (fun _ h => h.alive && h.AX == 0 && !h.flags.CF && h.flags.PF && h.flags.AF && h.flags.ZF && !h.flags.SF &&
        !h.flags.OF),
    -- V42-4: `48`, DEC AX
    vector [0x48] (fun h => { h with AX := 0x8000, flags := Flags.ofWord 0x0001 }) []
      (fun _ h => h.alive && h.AX == 0x7FFF && h.flags.CF && h.flags.PF && h.flags.AF && !h.flags.ZF && !h.flags.SF
        && h.flags.OF),
    -- V42-6: `FE 0F`, DEC byte [BX]
    vector [0xFE, 0x0F] (fun h => { h with BX := 0x0200 }) [(0x10200, [0x00])]
      (fun s h => s.mem.read s.params 0x10200 == 0xFF && h.alive && !h.flags.CF && h.flags.PF && h.flags.AF &&
        !h.flags.ZF && h.flags.SF && !h.flags.OF && s.events.reverse == [.write 0x10200]),
    -- V42-10: `54`, PUSH SP
    vector [0x54] (fun h => h) []
      (fun s h => s.mem.read s.params 0x20BFE == 0x00 && s.mem.read s.params 0x20BFF == 0x08 && h.alive && h.SP ==
        0x7FE),
    -- V42-11: `5C`, POP SP
    vector [0x5C] (fun h => { h with SP := 0x07FE }) [(0x20BFE, [0x00, 0x04])]
      (fun _ h => h.alive && h.SP == 0x400),
    -- V42-12b: `50`, PUSH AX
    vector [0x50] (fun h => { h with AX := 0xABCD, SP := 1, SS := 0x1041 }) []
      (fun s h => s.mem.read s.params 0x2040F == 0xCD && s.mem.read s.params 0x10410 == 0xAB && h.alive && h.SP ==
        0xFFFF && s.events.reverse == [.write 0x2040F, .write 0x10410]),
    -- V42-14: `58`, POP AX
    vector [0x58] (fun h => h) []
      (fun s h => s.events.head? == some (.death 0 (.memoryFault .read 0x20C00)) && died s h && h.AX == 0 && h.SP ==
        0x800),
    -- V42-19: `6A 80`, PUSH -128
    vector [0x6A, 0x80] (fun h => h) []
      (fun s h => s.mem.read s.params 0x20BFE == 0x80 && s.mem.read s.params 0x20BFF == 0xFF && h.alive && h.SP ==
        0x7FE),
    -- V42-22: `8F 07`, POP word [BX]
    vector [0x8F, 0x07] (fun h => { h with SP := 0x07FE, BX := 0x0200 }) [(0x20BFE, [0x21, 0x43])]
      (fun s h => h.alive && h.SP == 0x800 && s.events.reverse == [.write 0x10200, .write 0x10201]),
    -- V42-27: `61`, POPA
    vector [0x61]
      (fun h => { h with SP := 0x07F0 }) [(0x20BF0, [0x77, 0x77, 0x66, 0x66, 0x55, 0x55, 0x99, 0x99, 0x44, 0x44, 0x33, 0x33, 0x22, 0x22, 0x11, 0x11])]
      (fun _ h => h.alive && h.AX == 0x1111 && h.CX == 0x2222 && h.DX == 0x3333 && h.BX == 0x4444 && h.SP == 0x800
        && h.BP == 0x5555 && h.SI == 0x6666 && h.DI == 0x7777)
  ].all id = true := by
  decide +kernel

/-- Shifts and rotates: vectors V43. -/
theorem test_vectors_shifts : [
    -- V43-1: `D0 E0`, SHL AL, 1
    vector [0xD0, 0xE0] (fun h => { h with AX := 0x0040 }) []
      (fun _ h => h.alive && h.get8 .AL == 0x80 && !h.flags.CF && !h.flags.PF && !h.flags.ZF && h.flags.SF &&
        h.flags.OF),
    -- V43-5: `C1 E0 10`, SHL AX, 16
    vector [0xC1, 0xE0, 0x10] (fun h => { h with AX := 1 }) []
      (fun _ h => h.alive && h.AX == 0 && h.flags.CF && h.flags.PF && h.flags.ZF && !h.flags.SF),
    -- V43-9: `D3 E0`, SHL AX, CL
    vector [0xD3, 0xE0] (fun h => { h with AX := 1, CX := 0x000F }) []
      (fun _ h => h.alive && h.AX == 0x8000 && h.CX == 0xF && !h.flags.CF && h.flags.PF && !h.flags.ZF &&
        h.flags.SF),
    -- V43-13: `D0 F8`, SAR AL, 1
    vector [0xD0, 0xF8] (fun h => { h with AX := 0x0081, flags := Flags.ofWord 0x0800 }) []
      (fun _ h => h.alive && h.get8 .AL == 0xC0 && h.flags.CF && h.flags.PF && !h.flags.ZF && h.flags.SF &&
        !h.flags.OF),
    -- V43-17: `D1 F8`, SAR AX, 1
    vector [0xD1, 0xF8] (fun h => { h with AX := 0xFFFF }) []
      (fun _ h => h.alive && h.AX == 0xFFFF && h.flags.CF && h.flags.PF && !h.flags.ZF && h.flags.SF && !h.flags.OF),
    -- V43-21: `D1 C8`, ROR AX, 1
    vector [0xD1, 0xC8] (fun h => { h with AX := 1 }) []
      (fun _ h => h.alive && h.AX == 0x8000 && h.flags.CF && !h.flags.PF && !h.flags.ZF && !h.flags.SF &&
        h.flags.OF),
    -- V43-25: `C1 D0 11`, RCL AX, 17
    vector [0xC1, 0xD0, 0x11] (fun h => { h with AX := 0x1234 }) []
      (fun _ h => h.alive && h.AX == 0x1234 && !h.flags.CF && !h.flags.PF && !h.flags.ZF && !h.flags.SF)
  ].all id = true := by
  decide +kernel

/-- Strings: vectors V44. -/
theorem test_vectors_strings : [
    -- V44-1: `A4`, MOVSB
    vector [0xA4] (fun h => { h with SI := 0x0100, DI := 0 }) []
      (fun s h => s.mem.read s.params 0x20000 == 0xA4 && h.alive && h.SI == 0x101 && h.DI == 1 && s.events.reverse
        == [.write 0x20000]),
    -- V44-4: `F3 A5`, REP MOVSW
    vector [0xF3, 0xA5] (fun h => { h with CX := 0, SI := 0x1234, DI := 0x5678, flags := Flags.ofWord 0x0040 }) []
      (fun s h => h.alive && h.SI == 0x1234 && h.DI == 0x5678 && h.CX == 0 && h.flags.toWord == 0x40 &&
        s.events.reverse == []),
    -- V44-7: `F3 A7`, REPZ CMPSW
    vector [0xF3, 0xA7]
      (fun h => { h with ES := 0x1000, SI := 0x0200, DI := 0x0300, CX := 2 }) [(0x10200, [0x01, 0x00, 0x02, 0x00]), (0x10300, [0x01, 0x00, 0x02, 0x00])]
      (fun _ h => h.alive && h.SI == 0x204 && h.DI == 0x304 && h.CX == 0 && !h.flags.CF && h.flags.PF && !h.flags.AF
        && h.flags.ZF && !h.flags.SF && !h.flags.OF),
    -- V44-10: `AB`, STOSW
    vector [0xAB] (fun h => { h with AX := 0x1234, DI := 0, flags := Flags.ofWord 0x0400 }) []
      (fun s h => h.alive && h.DI == 0xFFFE && s.events.reverse == [.write 0x20000, .write 0x20001]),
    -- V44-13: `F2 AB`, REPNZ STOSW
    vector [0xF2, 0xAB] (fun h => { h with CX := 2, DI := 0 }) []
      (fun _ h => h.alive && h.DI == 4 && h.CX == 0),
    -- V44-16: `F3 AC`, REP LODSB
    vector [0xF3, 0xAC] (fun h => { h with SI := 0x0200, CX := 3 }) [(0x10200, [0x01, 0x02, 0x03])]
      (fun _ h => h.alive && h.AX == 3 && h.SI == 0x203 && h.CX == 0),
    -- V44-19: `F3 AE`, REPZ SCASB
    vector [0xF3, 0xAE] (fun h => { h with AX := 0x00CC, ES := 0x1000, DI := 0x00FC, CX := 0x0020 }) []
      (fun _ h => h.alive && h.DI == 0x101 && h.CX == 0x1B && h.flags.CF && !h.flags.PF && !h.flags.AF &&
        !h.flags.ZF && h.flags.SF && !h.flags.OF)
  ].all id = true := by
  decide +kernel

/-- NOT, NEG, MUL, IMUL, DIV, IDIV: vectors V45. -/
theorem test_vectors_mul_div : [
    -- V45-1: `F6 D0`, NOT AL
    vector [0xF6, 0xD0] (fun h => { h with flags := Flags.ofWord 0x08D5 }) []
      (fun _ h => h.alive && h.get8 .AL == 0xFF && h.flags.toWord == 0x8D5),
    -- V45-4: `F7 D8`, NEG AX
    vector [0xF7, 0xD8] (fun h => { h with AX := 0x8000 }) []
      (fun _ h => h.alive && h.AX == 0x8000 && h.flags.CF && h.flags.OF),
    -- V45-8: `F6 E3`, MUL BL
    vector [0xF6, 0xE3] (fun h => { h with AX := 0x0010, BX := 0x000F }) []
      (fun _ h => h.alive && h.AX == 0xF0 && !h.flags.CF && !h.flags.OF),
    -- V45-12: `F7 27`, MUL word [BX]
    vector [0xF7, 0x27] (fun h => { h with AX := 2, BX := 0x0200 }) [(0x10200, [0x00, 0x80])]
      (fun _ h => h.alive && h.AX == 0 && h.DX == 1 && h.flags.CF && h.flags.OF),
    -- V45-15: `F6 EB`, IMUL BL
    vector [0xF6, 0xEB] (fun h => { h with AX := 0x0040, BX := 2 }) []
      (fun _ h => h.alive && h.AX == 0x80 && h.flags.CF && h.flags.OF),
    -- V45-17: `F7 EB`, IMUL BX
    vector [0xF7, 0xEB] (fun h => { h with AX := 0x8000, BX := 0x8000 }) []
      (fun _ h => h.alive && h.AX == 0 && h.DX == 0x4000 && h.flags.CF && h.flags.OF),
    -- V45-19: `F6 F3`, DIV BL
    vector [0xF6, 0xF3] (fun h => { h with AX := 0x0064, BX := 7 }) []
      (fun _ h => h.alive && h.AX == 0x20E),
    -- V45-20: `F6 F3`, DIV BL
    vector [0xF6, 0xF3] (fun h => { h with AX := 0x0100, BX := 1 }) []
      (fun s h => s.events.head? == some (.death 0 (.divisionFault)) && died s h && h.AX == 0x100),
    -- V45-28: `F6 FB`, IDIV BL
    vector [0xF6, 0xFB] (fun h => { h with AX := 7, BX := 0x00FE }) []
      (fun _ h => h.alive && h.AX == 0x1FD),
    -- V45-30: `F6 FB`, IDIV BL
    vector [0xF6, 0xFB] (fun h => { h with AX := 0xFF80, BX := 0x00FF }) []
      (fun s h => s.events.head? == some (.death 0 (.divisionFault)) && died s h && h.AX == 0xFF80),
    -- V45-34: `F7 FB`, IDIV BX
    vector [0xF7, 0xFB] (fun h => { h with AX := 0xFFF9, DX := 0xFFFF, BX := 2 }) []
      (fun _ h => h.alive && h.AX == 0xFFFD && h.DX == 0xFFFF),
    -- V45-39: `6B DB 80`, IMUL BX, BX, -128
    vector [0x6B, 0xDB, 0x80] (fun h => { h with BX := 0x0100 }) []
      (fun _ h => h.alive && h.BX == 0x8000 && !h.flags.CF && !h.flags.OF),
    -- V45-40: `69 07 FF 7F`, IMUL AX, [BX], 0x7FFF
    vector [0x69, 0x07, 0xFF, 0x7F] (fun h => { h with BX := 0x0200 }) [(0x10200, [0x02, 0x00])]
      (fun _ h => h.alive && h.AX == 0xFFFE && h.flags.CF && h.flags.OF && h.IP == 0x104)
  ].all id = true := by
  decide +kernel

/-- Control transfer: vectors V46. -/
theorem test_vectors_control : [
    -- V46-1: `74 FE`, JZ $
    vector [0x74, 0xFE] (fun h => { h with flags := Flags.ofWord 0x0040 }) []
      (fun _ h => h.alive && h.IP == 0x100),
    -- V46-4: `7F 10`, JG +0x10
    vector [0x7F, 0x10] (fun h => { h with flags := Flags.ofWord 0x0880 }) []
      (fun _ h => h.alive && h.IP == 0x112),
    -- V46-8: `EB 10`, JMP +0x10
    vector [0xEB, 0x10] (fun h => { h with IP := 0xFFF8 }) []
      (fun _ h => h.alive && h.IP == 0xA),
    -- V46-10: `E2 FE`, LOOP $
    vector [0xE2, 0xFE] (fun h => { h with CX := 0, flags := Flags.ofWord 0x0040 }) []
      (fun _ h => h.alive && h.CX == 0xFFFF && h.IP == 0x100 && h.flags.toWord == 0x40),
    -- V46-13: `E0 10`, LOOPNZ +0x10
    vector [0xE0, 0x10] (fun h => { h with CX := 2 }) []
      (fun _ h => h.alive && h.CX == 1 && h.IP == 0x112),
    -- V46-19: `FF 2F`, JMP far [BX]
    vector [0xFF, 0x2F] (fun h => { h with BX := 0x0200 }) [(0x10200, [0x00, 0x03, 0x00, 0x10])]
      (fun _ h => h.alive && h.CS == 0x1000 && h.IP == 0x300),
    -- V46-23: `FF D4`, CALL SP
    vector [0xFF, 0xD4] (fun h => h) []
      (fun s h => s.mem.read s.params 0x20BFE == 0x02 && s.mem.read s.params 0x20BFF == 0x01 && h.alive && h.IP ==
        0x800 && h.SP == 0x7FE),
    -- V46-24: `FF 1F`, CALL far [BX]
    vector [0xFF, 0x1F] (fun h => { h with BX := 0x0200 }) [(0x10200, [0x00, 0x03, 0x00, 0x10])]
      (fun s h => s.mem.read s.params 0x20BFC == 0x02 && s.mem.read s.params 0x20BFD == 0x01 && s.mem.read s.params
        0x20BFE == 0x00 && s.mem.read s.params 0x20BFF == 0x10 && h.alive && h.CS == 0x1000 && h.IP == 0x300 && h.SP
        == 0x7FC),
    -- V46-30: `C2 FF FF`, RET 0xFFFF
    vector [0xC2, 0xFF, 0xFF] (fun h => { h with SP := 0x07FE }) [(0x20BFE, [0x03, 0x01])]
      (fun _ h => h.alive && h.IP == 0x103 && h.SP == 0x7FF),
    -- V46-32: `CA 02 00`, RETF 2
    vector [0xCA, 0x02, 0x00] (fun h => { h with SP := 0x07FA }) [(0x20BFA, [0x05, 0x01, 0x00, 0x10])]
      (fun _ h => h.alive && h.IP == 0x105 && h.CS == 0x1000 && h.SP == 0x800),
    -- V46-33: `CD 21`, INT 0x21
    vector [0xCD, 0x21] (fun h => { h with flags := Flags.ofWord 0x0301 }) []
      (fun s h => s.mem.read s.params 0x20BFA == 0x02 && s.mem.read s.params 0x20BFB == 0x01 && s.mem.read s.params
        0x20BFC == 0x00 && s.mem.read s.params 0x20BFD == 0x10 && s.mem.read s.params 0x20BFE == 0x01 && s.mem.read
        s.params 0x20BFF == 0x03 && s.events.head? == some (.death 0 (.memoryFault .read 0x00084)) && died s h &&
        h.SP == 0x7FA && h.flags.toWord == 1 && s.events.tail.length == 6),
    -- V46-37: `CE`, INTO
    vector [0xCE] (fun h => h) []
      (fun s h => h.alive && h.SP == 0x800 && h.IP == 0x101 && s.events.reverse == []),
    -- V46-40: `CD 21`, INT 0x21 with a readable table
    vector [0xCD, 0x21]
      (fun h => { h with perm := [⟨0x10000, 1⟩, ⟨0x20000, 7⟩, ⟨0x20C00, 3⟩], flags := Flags.ofWord 0x0202 }) [(0x84, [0x00, 0x02, 0x00, 0x10])]
      (fun s h => s.mem.read s.params 0x20BFA == 0x02 && s.mem.read s.params 0x20BFB == 0x01 && s.mem.read s.params
        0x20BFC == 0x00 && s.mem.read s.params 0x20BFD == 0x10 && s.mem.read s.params 0x20BFE == 0x02 && s.mem.read
        s.params 0x20BFF == 0x02 && h.alive && h.CS == 0x1000 && h.IP == 0x200 && h.SP == 0x7FA && h.flags.toWord ==
        2),
    -- V46-41: `CF`, IRET
    vector [0xCF] (fun h => { h with SP := 0x07FA }) [(0x20BFA, [0x00, 0x02, 0x00, 0x10, 0xFF, 0xFF])]
      (fun _ h => h.alive && h.IP == 0x200 && h.CS == 0x1000 && h.flags.toWord == 0xFFFF && h.SP == 0x800)
  ].all id = true := by
  decide +kernel

/-- Flag instructions: vectors V47. -/
theorem test_vectors_flag_instructions : [
    -- V47-6: `FA`, CLI
    vector [0xFA] (fun h => { h with flags := Flags.ofWord 0xFFFF }) []
      (fun _ h => h.alive && h.flags.toWord == 0xFDFF),
    -- V47-8: `9F`, LAHF
    vector [0x9F] (fun h => { h with AX := 0x0012, flags := Flags.ofWord 0xFFFF }) []
      (fun _ h => h.alive && h.AX == 0xFF12),
    -- V47-10: `9E`, SAHF
    vector [0x9E] (fun h => { h with flags := Flags.ofWord 0xFFFF }) []
      (fun _ h => h.alive && h.flags.toWord == 0xFF2A),
    -- V47-13: `9D`, POPF
    vector [0x9D] (fun h => { h with SP := 0x07FE }) [(0x20BFE, [0xFF, 0xFF])]
      (fun _ h => h.alive && h.flags.toWord == 0xFFFF && h.SP == 0x800)
  ].all id = true := by
  decide +kernel

/-- NRG, the virtual interrupts, the rows that fault: vectors V48. -/
theorem test_vectors_game : [
    -- V48-3: `9B 9B 9B 9B`, NRG
    vector [0x9B, 0x9B, 0x9B, 0x9B] (fun h => { h with energy := 0xFFFF }) []
      (fun _ h => h.alive && h.energy == 0xFFFF && h.IP == 0x104),
    -- V48-5: `9B 9B 9B 90`, (three WAIT; NOP)
    vector [0x9B, 0x9B, 0x9B, 0x90] (fun h => h) []
      (fun s h => s.events.head? == some (.death 0 (.invalidOpcode)) && died s h && h.energy == 0 && h.IP == 0x104),
    -- V48-6: `9B 9B 9B 9B`, NRG across the segment end
    vector [0x9B, 0x9B, 0x9B, 0x9B] (fun h => { h with IP := 0xFFFE }) []
      (fun _ h => h.alive && h.energy == 1 && h.IP == 2),
    -- V48-7: `CD 86`, INT 0x86
    vector [0xCD, 0x86]
      (fun h => { h with AX := 0xCCCC, ES := 0x1000, DI := 0x4000, DX := 0x9090, flags := Flags.ofWord 0x0200 }) []
      (fun s h => s.mem.read s.params 0x14000 == 0xCC && s.mem.read s.params 0x14001 == 0xCC && s.mem.read s.params
        0x14002 == 0x90 && s.mem.read s.params 0x14003 == 0x90 && s.mem.read s.params 0x14004 == 0xCC && s.mem.read
        s.params 0x14005 == 0xCC && s.mem.read s.params 0x14006 == 0x90 && s.mem.read s.params 0x14007 == 0x90 &&
        s.mem.read s.params 0x140FC == 0xCC && s.mem.read s.params 0x140FD == 0xCC && s.mem.read s.params 0x140FE ==
        0x90 && s.mem.read s.params 0x140FF == 0x90 && s.mem.read s.params 0x14100 == 0xCC && s.mem.read s.params
        0x14101 == 0xCC && h.alive && [h.bomb0, h.bomb1, h.bomb2] == [1, 1, 0] && h.DI == 0x4100 && h.AX == 0xCCCC
        && h.DX == 0x9090 && h.flags.toWord == 0x200 && h.SP == 0x800 && s.events.length == 0x100),
    -- V48-9: `CD 86`, INT 0x86
    vector [0xCD, 0x86]
      (fun h => { h with AX := 0x1111, ES := 0x1000, DI := 0x4000, bomb0 := 0, bomb1 := 1, bomb2 := 0 }) []
      (fun s h => h.alive && [h.bomb0, h.bomb1, h.bomb2] == [0, 1, 0] && h.DI == 0x4000 && s.events.reverse == []),
    -- V48-16: `CD 87`, INT 0x87
    vector [0xCD, 0x87]
      (fun h => { h with DI := 0, DX := 0, BX := 0x1111, CX := 0x2222, bomb0 := 2, bomb1 := 0, bomb2 := 0 }) []
      (fun s h => h.alive && [h.bomb0, h.bomb1, h.bomb2] == [2, 0, 0] && s.events.reverse == []),
    -- V48-17: `CD 88`, INT 0x88
    vector [0xCD, 0x88] (fun h => { h with flags := Flags.ofWord 0x0300 }) []
      (fun _ h => h.alive && [h.bomb0, h.bomb1, h.bomb2] == [2, 1, 0] && h.IP == 0x102 && h.SP == 0x800 &&
        h.flags.toWord == 0x300),
    -- V48-u26: `26`, ES: prefix
    vector [0x26] (fun h => h) []
      (fun s h => s.events.head? == some (.death 0 (.unimplementedOpcode)) && died s h && h.IP == 0x101),
    -- V48-iD6: `D6`, (SALC)
    vector [0xD6] (fun h => h) []
      (fun s h => s.events.head? == some (.death 0 (.invalidOpcode)) && died s h && h.IP == 0x101)
  ].all id = true := by
  decide +kernel

/-! ### Addresses, tables, reset: vectors of 95_test_vectors.md -/

/-- V20-1, V20-5, V20-6 (R61); V20-9, V20-11 (R62); V20-14 (R63). -/
theorem test_vectors_translator :
    [⟨0x1000, 0x0100⟩, ⟨0xFFFF, 0x0010⟩, ⟨0xFFFF, 0xFFFF⟩].map (lin Config.hardware) = [0x10100, 0, 0x0FFEF] ∧
    [fromLinear Config.hardware 0x12345, fromLinear Config.hardware 0xFFFFF, addOffset ⟨0x1000, 0xFFFF⟩ 1] =
      [⟨0x1234, 5⟩, ⟨0xFFFF, 0x000F⟩, ⟨0x1000, 0⟩] := by
  decide +kernel

/-- V20-17, V20-18, V20-20, V20-21 (R64, D36). -/
theorem test_vectors_add_address :
    (let add := addAddress Config.hardware
     [add ⟨0x1000, 0x0100⟩ 0x10, add ⟨0x1000, 0xFFFF⟩ 1, add ⟨0, 5⟩ 3, add ⟨0, 0xFFFF⟩ 1]) =
      [⟨0x1000, 0x0110⟩, ⟨0x2000, 0⟩, ⟨0, 8⟩, ⟨0x1000, 0⟩] := by
  decide +kernel

/-- Two spellings of linear 0x12345, and the byte before and after it (R60); V20-5, which wraps to 0. -/
theorem test_address_order :
    sameAddress Config.hardware ⟨0x1000, 0x2345⟩ ⟨0x1234, 0x0005⟩ = true ∧
    [⟨0x1234, 0x0005⟩, ⟨0x1234, 0x0006⟩, ⟨0xFFFF, 0x0010⟩].map (compareAddress Config.hardware ⟨0x1000, 0x2345⟩) =
      [.eq, .lt, .gt] := by
  decide +kernel

/-- The table of hart 0 at reset (V20-32). -/
def perm0 : List Region := [⟨0x10000, 0⟩, ⟨0x20000, 7⟩, ⟨0x20C00, 3⟩]

/-- V20-30 to V20-32, V20-34 to V20-37 (R86). -/
theorem test_vectors_grant :
    let grant := grant Config.hardware
    (do grant (← grant (← grant [] 0x10000 0x10000 7) 0x20400 0x800 3) 0x20000 0x400 3) = some perm0 ∧
    (do grant (← grant [] 0x100 0x100 3) 0x200 0x100 3) = some [⟨0x100, 0⟩, ⟨0x300, 3⟩] ∧
    grant perm0 0x18000 0x10 1 = some [⟨0x10000, 0⟩, ⟨0x18000, 7⟩, ⟨0x18010, 1⟩, ⟨0x20000, 7⟩, ⟨0x20C00, 3⟩] ∧
    grant perm0 0xFFFF0 0x100 3 =
      some [⟨0x10000, 0⟩, ⟨0x20000, 7⟩, ⟨0x20C00, 3⟩, ⟨0xFFFF0, 0⟩, ⟨0x100000, 3⟩] ∧
    grant perm0 0x5000 0 7 = some perm0 := by
  decide +kernel

/-- V20-38 to V20-44, V20-49, V20-50 (R85). -/
theorem test_vectors_check_access :
    (let check := checkAccess Config.hardware perm0
     [check 0x10000 1 4, check 0x0FFFF 1 1, check 0x1FFFF 1 4, check 0x20000 1 4, check 0x20000 1 2, check 0x20BFF 1 1,
      check 0x20C00 1 1, check 0x1FFFF 2 3, check 0x1FFFF 2 4]) =
      [4, 0, 4, 0, 2, 1, 0, 3, 0] := by
  decide +kernel

/-- V60-1 to V60-5, V60-8, V60-10 to V60-12 (R446). -/
theorem test_vectors_speed :
    [0, 1, 2, 3, 4, 0xFF, 0x7FFF, 0x8000, 0xFFFF].map (speed Config.hardware) = [0, 1, 2, 2, 3, 8, 15, 16, 16] := by
  decide +kernel

/-- The configuration of V70-1: two warriors `EB FE`. -/
def twoLoops (a b : Nat) : ResetConfig := { groups := [[⟨"a", [0xEB, 0xFE], a⟩], [⟨"b", [0xEB, 0xFE], b⟩]] }

/-- V70-1 (R486, R488). -/
theorem test_vector_reset :
    (resetBlock (twoLoops 0x0400 0x2000)).map (fun s => s.harts.map fun h => [h.AX, h.IP, h.CS, h.DS, h.SS, h.ES, h.SP])
      = some [[0x0400, 0x0400, 0x1000, 0x1000, 0x2040, 0x2000, 0x0800],
        [0x2000, 0x2000, 0x1000, 0x1000, 0x2100, 0x20C0, 0x0800]] := by
  decide +kernel

/-- V70-3, V70-6, V70-7 (R484). -/
theorem test_vectors_placement :
    [resetBlock (twoLoops 0x03FF 0x2000), resetBlock (twoLoops 0x0400 0x0802), resetBlock (twoLoops 0x0400 0x0801)].map
      Option.isSome = [false, true, false] := by
  decide +kernel

/-! ### Parameters other than those of R9 -/

/-- Two loops under other parameters. -/
def twoLoopsWith (p : Config.Params) : ResetConfig := { twoLoops 0x0400 0x2000 with params := p }

/-- MIN_GAP, STACK_SIZE, ARENA_SEGMENT and SHARED_SIZE are inputs of reset (R9, R480, R486, R488). -/
theorem test_reset_parameters :
    ((resetBlock (twoLoopsWith
      { Config.hardware with minGap := 0x10, stackSize := 0x100, arenaSegment := 0x2000, sharedSize := 0x20 })).map
        fun s => s.harts.map fun h => [h.CS, h.SS, h.ES, h.SP]) =
      some [[0x2000, 0x3002, 0x3000, 0x0100], [0x2000, 0x3014, 0x3012, 0x0100]] := by
  decide +kernel

/-- A table that three grants do not fit in (R87), and parameters the rules make no sense for (log 29): reset errors. -/
theorem test_reset_refuses_parameters :
    [({ maxRegions := 3 } : Config.Params), { maxRegions := 2 }, { memorySize := 0x80000 }, { decelerationRounds := 0 },
      { maxSpeed := 15 }, { regWidth := 32 }, { permWrite := 1 }].map
        (fun p => (resetBlock (twoLoopsWith p)).isSome) =
      [false, false, false, false, false, false, false] := by
  decide +kernel

/-- The round cap, the decay's period, the shift mask and the overflow of Energy follow their parameters (R448, R445,
R271, R400). -/
theorem test_parameters_in_steps :
    (({ State.reset with params := { maxRound := 0 } } : State).atBoundary.endReason == some .roundCapReached &&
      (decayed { decelerationRounds := 3 } 6 9 == 8) && (decayed Config.hardware 6 9 == 9) &&
      (maskedCount { shiftCountMask := 0xFF } 0x21 == 0x21) && (maskedCount Config.hardware 0x21 == 1) &&
      (raisedEnergy .wrap 0xFFFF == 0) && (raisedEnergy .saturate 0xFFFF == 0xFFFF)) = true := by
  decide +kernel

/-! ### Witnesses: a state and operands that meet an obligation's hypotheses -/

/-- A hart that may read, write and execute everywhere, with its pointers at the ends of their segments. -/
def freeHart : Hart :=
  { harnessHart with
    perm := [⟨0x100000, 7⟩], BX := 0xFFFF, SP := 1, SI := 0xFFFF, DI := 0xFFFF, BP := 0xFFFF, CX := 3, DS := 0xFFFF }

/-- The block in which it runs. -/
def freeState : State := stateOf freeHart

/-- What freeHart works on there. -/
def freeCpu : Cpu := freeState.cpu freeHart

theorem lin_lt (a : Addr) : lin Config.hardware a < 0x100000 := Nat.mod_lt _ (by decide)

theorem all_allowed (a : Addr) (ch : Channel) :
    allowed Config.hardware freeHart.perm (lin Config.hardware a) ch = true := by
  have h : ¬ 0x100000 ≤ lin Config.hardware a := Nat.not_le.mpr (lin_lt a)
  have h2 : min (lin Config.hardware a + 1) Config.hardware.memorySize = lin Config.hardware a + 1 :=
    Nat.min_eq_left (lin_lt a)
  show (checkAccess Config.hardware [⟨0x100000, 7⟩] (lin Config.hardware a) 1 (ch.bit Config.hardware) ==
    ch.bit Config.hardware) = true
  unfold checkAccess
  rw [h2]
  simp only [List.dropWhile, h, decide_false, checkFrom, Nat.lt_add_one, if_true]
  have h3 : ¬ 0x100000 < lin Config.hardware a + 1 := fun k => h (Nat.le_of_lt_succ k)
  rw [if_neg h3]
  cases ch <;> rfl

theorem can_read8 (a : Addr) : freeCpu.CanRead8 a := all_allowed a .read
theorem can_write8 (a : Addr) : freeCpu.CanWrite8 a := all_allowed a .write
theorem can_read16 (a : Addr) : freeCpu.CanRead16 a := ⟨can_read8 _, can_read8 _⟩
theorem can_write16 (a : Addr) : freeCpu.CanWrite16 a := ⟨can_write8 _, can_write8 _⟩

/-- A memory operand of which the second byte wraps in its segment: `[BX]` with BX 0xFFFF. -/
def wrapped : MemOp := .plain .bx

theorem freeHart_runs : freeState.Running freeHart := rfl

/-- Whether an answer is a next state in which it is a hart's turn. -/
def goesOn : Answer → Bool
  | .next t => t.harts[t.turn]?.isSome
  | .fault _ => false
  | .refused _ => false

theorem goesOn_next {a : Answer} (h : goesOn a = true) : ∃ t g, a = .next t ∧ t.Running g := by
  cases a with
  | next t => exact ⟨t, _, rfl, (Option.some_get h).symm⟩
  | fault _ => cases h
  | refused _ => cases h

/-- The operand hypotheses of AluByteForms, AluWordForms, OneOperandForms, Moves, ExchangesAndPointers, ShiftForms,
Multiplies: an operand in memory whose word wraps at the end of its segment, and a register. -/
theorem witness_operands :
    freeState.Running freeHart ∧
    freeCpu.Readable8 (.mem wrapped) ∧ freeCpu.Writable8 (.mem wrapped) ∧
    freeCpu.Readable16 (.mem wrapped) ∧ freeCpu.Writable16 (.mem wrapped) ∧
    freeCpu.Readable8 (.reg .BH) ∧ freeCpu.Writable16 (.reg .DI) :=
  ⟨rfl, can_read8 _, can_write8 _, can_read16 _, can_write16 _, trivial, trivial⟩

theorem witness_AluByteForms :
    freeState.Running freeHart ∧ (AluOp.add, Instr.addEbGb) ∈ [(AluOp.add, Instr.addEbGb)] ∧
    freeCpu.Readable8 (.mem wrapped) ∧ (AluOp.add.writes = true → freeCpu.Writable8 (.mem wrapped)) :=
  ⟨rfl, .head _, can_read8 _, fun _ => can_write8 _⟩

theorem witness_AluWordForms :
    freeState.Running freeHart ∧ freeCpu.Readable16 (.mem wrapped) ∧
    (AluOp.add.writes = true → freeCpu.Writable16 (.mem wrapped)) :=
  ⟨rfl, can_read16 _, fun _ => can_write16 _⟩

/-- The width of AluResults, at its boundary operands: a carry out of the top, a signed overflow. -/
theorem witness_AluResults :
    ((8 = 8 ∨ 8 = 16) ∧ 2 ^ 8 ≤ (0xFF : Byte).toNat + (1 : Byte).toNat + false.toNat) ∧
    ((16 = 8 ∨ 16 = 16) ∧ 2 ^ (16 - 1) ≤ (0x7FFF : Word).toInt + (1 : Word).toInt) := by
  decide

theorem witness_OneOperandForms :
    freeState.Running freeHart ∧ freeCpu.Readable8 (.mem wrapped) ∧ freeCpu.Writable8 (.mem wrapped) ∧
    freeCpu.Readable16 (.mem wrapped) ∧ freeCpu.Writable16 (.mem wrapped) :=
  ⟨rfl, can_read8 _, can_write8 _, can_read16 _, can_write16 _⟩

/-- SP is 1: the first push wraps. -/
theorem witness_PushesAndPops :
    freeState.Running freeHart ∧ freeCpu.CanPush 1 ∧ freeCpu.CanPop 1 ∧ freeCpu.Readable16 (.mem wrapped) ∧
    freeCpu.Writable16 (.mem wrapped) :=
  ⟨rfl, fun _ _ => can_write16 _, fun _ _ => can_read16 _, can_read16 _, can_write16 _⟩

theorem witness_PushAllPopAll :
    freeState.Running freeHart ∧ freeCpu.CanPush 8 ∧ ∀ k, k < 8 → k ≠ 3 → freeCpu.CanRead16 (freeHart.popSlot k) :=
  ⟨rfl, fun _ _ => can_write16 _, fun _ _ _ => can_read16 _⟩

/-- Levels 0, 1 and 31: no display, the frame pointer alone, thirty copies. -/
theorem witness_EnterAndLeave :
    freeState.Running freeHart ∧
    (∀ level ∈ ([0, 1, 31, 0xFF] : List Byte), freeCpu.CanPush (1 + level.toNat % 32) ∧
      ∀ k, k + 1 < level.toNat % 32 → freeCpu.CanRead16 ⟨freeHart.SS, freeHart.BP - BitVec.ofNat 16 (2 * (k + 1))⟩) ∧
    (0x20 : Byte).toNat % 32 = 0 ∧ freeCpu.CanRead16 ⟨freeHart.SS, freeHart.BP⟩ :=
  ⟨rfl, fun _ _ => ⟨fun _ _ => can_write16 _, fun _ _ => can_read16 _⟩, by decide, can_read16 _⟩

theorem witness_Moves :
    freeState.Running freeHart ∧ freeCpu.Writable8 (.mem wrapped) ∧ freeCpu.Readable16 (.mem wrapped) ∧
    freeCpu.CanRead16 ⟨freeHart.DS, 0xFFFF⟩ ∧ freeCpu.CanWrite16 ⟨freeHart.DS, 0xFFFF⟩ :=
  ⟨rfl, can_write8 _, can_read16 _, can_read16 _, can_write16 _⟩

theorem witness_ExchangesAndPointers :
    freeState.Running freeHart ∧ freeCpu.Readable16 (.mem wrapped) ∧ freeCpu.Writable16 (.mem wrapped) ∧
    freeCpu.CanRead8 ⟨freeHart.DS, freeHart.BX + (freeHart.get8 .AL).setWidth 16⟩ ∧
    freeCpu.CanRead16 (freeHart.ea wrapped) ∧ freeCpu.CanRead16 (addOffset (freeHart.ea wrapped) 2) :=
  ⟨rfl, can_read16 _, can_write16 _, can_read8 _, can_read16 _, can_read16 _⟩

/-- Masked counts 0, 1 and 31. -/
theorem witness_ShiftForms :
    freeState.Running freeHart ∧ freeCpu.Readable8 (.mem wrapped) ∧ freeCpu.Readable16 (.mem wrapped) ∧
    [(0x20 : Byte), 1, 0xFF].map (maskedCount Config.hardware) = [0, 1, 31] ∧
    (∀ imm : Byte, maskedCount freeState.params imm ≠ 0 →
      freeCpu.Writable8 (.mem wrapped) ∧ freeCpu.Writable16 (.mem wrapped)) :=
  ⟨rfl, can_read8 _, can_read16 _, by decide, fun _ _ => ⟨can_write8 _, can_write16 _⟩⟩

/-- Both widths, at a count of the width. -/
theorem witness_ShiftResults : ((8 = 8 ∨ 8 = 16) ∧ 8 ≠ 0 ∧ 8 ≤ 8) ∧ ((16 = 8 ∨ 16 = 16) ∧ 16 ≠ 0 ∧ 16 ≤ 16) := by
  decide

theorem witness_StringInstructions :
    freeState.Running freeHart ∧ freeCpu.CanRead16 ⟨freeHart.DS, freeHart.SI⟩ ∧
    freeCpu.CanWrite16 ⟨freeHart.ES, freeHart.DI⟩ ∧ freeCpu.CanRead16 ⟨freeHart.ES, freeHart.DI⟩ :=
  ⟨rfl, can_read16 _, can_write16 _, can_read16 _⟩

theorem witness_RepeatedStrings :
    freeState.Running freeHart ∧ 0 < freeHart.CX.toNat ∧
    (∀ k, k < freeHart.CX.toNat → freeCpu.CanRead8 (freeHart.source 1 k) ∧ freeCpu.CanWrite8 (freeHart.target 1 k) ∧
      freeCpu.CanRead8 (freeHart.target 1 k)) ∧
    (∀ k, k < freeHart.CX.toNat → freeCpu.CanRead16 (freeHart.source 2 k) ∧
      freeCpu.CanWrite16 (freeHart.target 2 k) ∧ freeCpu.CanRead16 (freeHart.target 2 k)) :=
  ⟨rfl, by decide, fun _ _ => ⟨can_read8 _, can_write8 _, can_read8 _⟩,
    fun _ _ => ⟨can_read16 _, can_write16 _, can_read16 _⟩⟩

/-- Three bytes, which wrap at the end of the segment. -/
theorem witness_RepStosFills :
    freeState.Running freeHart ∧ freeHart.flags.DF = false ∧
    (∀ k, k < freeHart.CX.toNat → freeCpu.CanWrite8 ⟨freeHart.ES, freeHart.DI + BitVec.ofNat 16 k⟩) ∧
    ∃ t g, exec .repStosb freeState = .next t ∧ t.Running g :=
  ⟨rfl, rfl, fun _ _ => can_write8 _, goesOn_next (by decide +kernel)⟩

theorem witness_Multiplies :
    freeState.Running freeHart ∧ freeCpu.Readable8 (.mem wrapped) ∧ freeCpu.Readable16 (.mem wrapped) :=
  ⟨rfl, can_read8 _, can_read16 _⟩

/-- A hart with chosen AX, DX, CX. -/
def dividing (dx ax cx : Word) : Hart := { freeHart with AX := ax, DX := dx, CX := cx }

/-- DIV CL: the largest quotient; IDIV CL: -128. -/
theorem witness_Divides_byte :
    (stateOf (dividing 0 0x00FF 1)).Running (dividing 0 0x00FF 1) ∧
    ((stateOf (dividing 0 0x00FF 1)).cpu (dividing 0 0x00FF 1)).readRm8 (.reg .CL) ≠ 0 ∧
    (0x00FF : Word).toNat = (0xFF : Byte).toNat * (1 : Byte).toNat + (0 : Byte).toNat ∧
    (0 : Byte).toNat < (1 : Byte).toNat ∧
    (0x80 : Byte).toInt = (0xFF80 : Word).toInt.tdiv (1 : Byte).toInt ∧
    (0 : Byte).toInt = (0xFF80 : Word).toInt.tmod (1 : Byte).toInt := by
  refine ⟨rfl, ?_⟩
  decide

/-- DIV CX: the largest quotient with a remainder; IDIV CX: -32768 with a divisor of -1 would not fit, 1 does. -/
theorem witness_Divides_word :
    (stateOf (dividing 1 0xFFFF 2)).Running (dividing 1 0xFFFF 2) ∧
    ((stateOf (dividing 1 0xFFFF 2)).cpu (dividing 1 0xFFFF 2)).readRm16 (.reg .CX) ≠ 0 ∧
    ((1 : Word) ++ (0xFFFF : Word)).toNat = (0xFFFF : Word).toNat * (2 : Word).toNat + (1 : Word).toNat ∧
    (1 : Word).toNat < (2 : Word).toNat ∧
    (0x8000 : Word).toInt = ((0xFFFF : Word) ++ (0x8000 : Word)).toInt.tdiv (1 : Word).toInt ∧
    (0 : Word).toInt = ((0xFFFF : Word) ++ (0x8000 : Word)).toInt.tmod (1 : Word).toInt := by
  refine ⟨rfl, ?_⟩
  decide

/-- Both sides of DivisionFaults are met: a zero divisor, a quotient one too large, and one that fits. -/
theorem witness_DivisionFaults :
    freeState.Running freeHart ∧ freeCpu.Readable8 (.reg .CL) ∧ freeCpu.Readable16 (.mem wrapped) ∧
    0xFF < (0x0100 : Word).toNat / (1 : Byte).toNat ∧ ¬ 0xFF < (0x00FF : Word).toNat / (1 : Byte).toNat ∧
    127 < (0x0080 : Word).toInt.tdiv (1 : Byte).toInt ∧ ¬ (0xFF80 : Word).toInt.tdiv (1 : Byte).toInt < -128 := by
  refine ⟨rfl, trivial, can_read16 _, ?_⟩
  decide

theorem witness_ConditionalJumps : freeState.Running freeHart := rfl

theorem witness_JumpsAndCalls :
    freeState.Running freeHart ∧ freeCpu.Readable16 (.mem wrapped) ∧ freeCpu.CanRead16 (freeHart.ea wrapped) ∧
    freeCpu.CanRead16 (addOffset (freeHart.ea wrapped) 2) ∧ freeCpu.CanPush 1 ∧ freeCpu.CanPush 2 :=
  ⟨rfl, can_read16 _, can_read16 _, can_read16 _, fun _ _ => can_write16 _, fun _ _ => can_write16 _⟩

theorem witness_Returns :
    freeState.Running freeHart ∧ freeCpu.CanPop 1 ∧ freeCpu.CanPop 2 ∧ freeCpu.CanPop 3 :=
  ⟨rfl, fun _ _ => can_read16 _, fun _ _ => can_read16 _, fun _ _ => can_read16 _⟩

/-- The last vector, and the vectors of INT3 and INTO. -/
theorem witness_Interrupts :
    freeState.Running freeHart ∧ freeCpu.CanPush 3 ∧
    (∀ n ∈ ([0, 3, 4, 0xFF] : List Byte), freeCpu.CanRead16 ⟨0, BitVec.ofNat 16 (4 * n.toNat)⟩ ∧
      freeCpu.CanRead16 ⟨0, BitVec.ofNat 16 (4 * n.toNat + 2)⟩ ∧ isVirtualVector n = false) ∧
    freeHart.flags.OF = false ∧ ({ freeHart with flags := { freeHart.flags with OF := true } } : Hart).flags.OF = true :=
  ⟨rfl, fun _ _ => can_write16 _, fun n hn => ⟨can_read16 _, can_read16 _, by
    simp only [List.mem_cons, List.not_mem_nil, or_false] at hn
    rcases hn with rfl | rfl | rfl | rfl <;> decide⟩, rfl, rfl⟩

/-- The hart of the vectors may not read the vector table. -/
theorem witness_InterruptWithoutVectorKills :
    (stateOf harnessHart).Running harnessHart ∧ ((stateOf harnessHart).cpu harnessHart).CanPush 3 ∧
    (∀ n ∈ ([0, 3, 4, 0xFF] : List Byte),
      allowed Config.hardware harnessHart.perm (lin Config.hardware ⟨0, BitVec.ofNat 16 (4 * n.toNat)⟩) .read = false) ∧
    isVirtualVector 0 = false ∧ isVirtualVector 0xFF = false := by
  refine ⟨rfl, ?_, by decide⟩
  unfold Cpu.CanPush Cpu.CanWrite16 Cpu.CanWrite8
  decide

theorem witness_FlagInstructions : freeState.Running freeHart := rfl

/-- The bombs run out, and the bombs dropped. -/
theorem witness_GameInstructions :
    freeState.Running freeHart ∧ freeState.params.nrgOverflow = .saturate ∧
    ({ freeState with params := { nrgOverflow := .wrap } } : State).params.nrgOverflow = .wrap ∧ freeHart.bomb2 = 0 ∧
    ({ freeHart with bomb0 := 0, bomb1 := 0 } : Hart).bomb0 = 0 ∧
    freeHart.bomb0 ≠ 0 ∧ (∀ k, k < 128 → freeCpu.CanWrite16 (freeHart.target 2 k)) ∧
    freeHart.bomb1 ≠ 0 ∧ (∀ o, freeCpu.CanRead8 ⟨freeHart.ES, o⟩) :=
  ⟨rfl, rfl, rfl, rfl, rfl, by decide, fun _ _ => can_write16 _, by decide, fun _ => can_read8 _⟩

/-- A word of reset's memory. -/
theorem reset_word (c : Cpu) (hp : c.params = Config.hardware) (h : c.mem = ⟨[]⟩) (a : Addr) :
    c.wordAt a = 0 ∨ c.wordAt a = 0xCC ∨ c.wordAt a = 0xCC00 ∨ c.wordAt a = 0xCCCC := by
  have hb : ∀ b, c.byteAt b = 0 ∨ c.byteAt b = 0xCC := fun b => by
    show c.mem.read _ _ = _ ∨ c.mem.read _ _ = _
    rw [h]
    show fillAt _ _ = _ ∨ fillAt _ _ = _
    rw [hp]
    unfold fillAt
    split
    · exact .inr rfl
    · exact .inl rfl
  unfold Cpu.wordAt
  rcases hb (addOffset a 1) with h1 | h1 <;> rcases hb a with h2 | h2 <;> rw [h1, h2] <;> decide

/-- The smart bomb finds nothing: AX is 0x1234, which stands nowhere in reset's memory. -/
theorem witness_GameInstructions_bomb1_none :
    (freeState.cpu { freeHart with AX := 0x1234 }).bombPlace = none := by
  unfold Cpu.bombPlace
  rw [List.find?_eq_none]
  intro a _
  rcases reset_word (freeState.cpu { freeHart with AX := 0x1234 }) rfl rfl a with h | h | h | h <;> rw [h] <;>
    simp [State.cpu]

/-- The smart bomb finds its pattern at once: AX and DX are 0xCCCC and ES:DI is in the arena. -/
theorem witness_GameInstructions_bomb1_some :
    (freeState.cpu { freeHart with ES := 0x1000, DI := 0, AX := 0xCCCC, DX := 0xCCCC }).bombPlace = some ⟨0x1000, 0⟩ := by
  unfold Cpu.bombPlace
  rw [show (0x10000 : Nat) = 0xFFFF + 1 from rfl, List.range_succ_eq_map, List.map_cons]
  rw [List.find?_cons_of_pos (by decide)]
  rfl

/-- An invalid and an unimplemented encoding. -/
theorem witness_FaultRowsKill :
    freeState.Running freeHart ∧ Instr.raises .invalid0F = some .invalidOpcode ∧
    Instr.raises .hlt = some .unimplementedOpcode :=
  ⟨rfl, rfl, rfl⟩

/-- The hart of the vectors with a stack pointer of its own: its data may lie at 0x20000 .. 0x20BFF alone. -/
def stackHart (ss sp : Word) : Hart := { harnessHart with SS := ss, SP := sp, BP := sp, DS := 0x2000, BX := 0x0BFF }

/-- What it works on. -/
def stackCpu (ss sp : Word) : Cpu := (stateOf (stackHart ss sp)).cpu (stackHart ss sp)

/-- Operands: a hart that may read but not write, one that may not read, one whose word ends past what it may write. -/
theorem witness_DataFaultsKill :
    (let h := { harnessHart with perm := [⟨0x100000, 1⟩] }
     (stateOf h).Running h ∧ ((stateOf h).cpu h).CanRead8 (h.ea wrapped) ∧
       allowed Config.hardware h.perm (lin Config.hardware (h.ea wrapped)) .write = false) ∧
    (let h := { harnessHart with DS := 0 }
     (stateOf h).Running h ∧ allowed Config.hardware h.perm (lin Config.hardware (h.ea wrapped)) .read = false) ∧
    (let h := { harnessHart with DS := 0x2000, BX := 0x0BFF }
     (stateOf h).Running h ∧ ((stateOf h).cpu h).CanWrite8 (h.ea wrapped) ∧
       allowed Config.hardware h.perm (lin Config.hardware (addOffset (h.ea wrapped) 1)) .write = false) := by
  refine ⟨⟨rfl, ?_, ?_⟩, ⟨rfl, ?_⟩, ⟨rfl, ?_, ?_⟩⟩ <;> simp only [Cpu.CanRead8, Cpu.CanWrite8] <;> decide

/-- Pushes: the high byte denied, the low byte denied; the second, the third and the fourth push of an instruction
denied after those before it; a far pointer that may be read, for CALL through memory. -/
theorem witness_DataFaultsKill_pushes :
    (stateOf (stackHart 0x2000 2)).Running (stackHart 0x2000 2) ∧
    ((stackCpu 0x2040 0x0801).pushFault 0x1234).isSome = true ∧
    ((stackCpu 0x2040 0x0802).pushFault 0x1234).isSome = true ∧
    (stackCpu 0x2040 0x0802).CanRead16 ((stackHart 0x2040 0x0802).ea (.plain .si)) ∧
    (stackCpu 0x2040 0x0802).CanRead16 (addOffset ((stackHart 0x2040 0x0802).ea (.plain .si)) 2) ∧
    isVirtualVector 0x21 = false ∧ ({ stackHart 0x2040 0x0802 with flags := Flags.ofWord 0x0800 } : Hart).flags.OF = true ∧
    ((stackCpu 0x2000 2).CanPush 1 ∧ (((stackCpu 0x2000 2).push 0).pushFault 0).isSome = true) ∧
    ((stackCpu 0x2000 4).CanPush 2 ∧ ((((stackCpu 0x2000 4).push 0).push 0).pushFault 0).isSome = true) ∧
    (stackCpu 0x2000 6).CanPush 3 ∧ (((((stackCpu 0x2000 6).push 0).push 0).push 0).pushFault 0).isSome = true := by
  refine ⟨rfl, ?_⟩
  unfold Cpu.CanPush Cpu.CanWrite16 Cpu.CanWrite8 Cpu.CanRead16 Cpu.CanRead8
  decide +kernel

/-- Pops: the second byte denied; the second and the third pop of an instruction denied; the destination of POP denied.
-/
theorem witness_DataFaultsKill_pops :
    (stackCpu 0x2040 0x07FF).popFault.isSome = true ∧
    ((stackCpu 0x2040 0x07FE).CanPop 1 ∧
      ((stackCpu 0x2040 0x07FE).setHart ((stackHart 0x2040 0x07FE).popped 1)).popFault.isSome = true ∧
      (((stackCpu 0x2040 0x07FE).setHart ((stackHart 0x2040 0x07FE).popped 1)).writeFault
        ((stackHart 0x2040 0x07FE).ea wrapped) [0x34, 0x12]).isSome = true) ∧
    (stackCpu 0x2040 0x07FC).CanPop 2 ∧
      ((stackCpu 0x2040 0x07FC).setHart ((stackHart 0x2040 0x07FC).popped 2)).popFault.isSome = true := by
  unfold Cpu.CanPop Cpu.CanRead16 Cpu.CanRead8
  decide +kernel

/-- A hart whose string elements begin at `DS:SI` and `ES:DI` in its data. -/
def stringHart (si di cx : Word) : Hart := { harnessHart with DS := 0x2000, ES := 0x2000, SI := si, DI := di, CX := cx }

/-- What it works on. -/
def stringCpu (si di cx : Word) : Cpu := (stateOf (stringHart si di cx)).cpu (stringHart si di cx)

/-- The carpet bomb part-way: the first word's high and low byte denied, the second word's; the last pair's first word and
its second, after 126 and 127 words that may be written. -/
theorem witness_GameInstructions_bomb0_denied :
    (stateOf (stringHart 0 0x0C00 0)).Running (stringHart 0 0x0C00 0) ∧ (stringHart 0 0x0C00 0).bomb0 ≠ 0 ∧
    ((Cpu.bombed 0 (stringCpu 0 0x0BFF 0)).writeFault ((stringHart 0 0x0BFF 0).target 2 0) [0, 0]).isSome = true ∧
    ((Cpu.bombed 0 (stringCpu 0 0x0C00 0)).writeFault ((stringHart 0 0x0C00 0).target 2 0) [0, 0]).isSome = true ∧
    ((stringCpu 0 0x0BFE 0).CanWrite16 ((stringHart 0 0x0BFE 0).target 2 0) ∧
      ((Cpu.bombed 0 (stringCpu 0 0x0BFE 0)).writeFault ((stringHart 0 0x0BFE 0).target 2 1) [0, 0]).isSome = true) ∧
    ((∀ j, j < 126 → (stringCpu 0 0x0B04 0).CanWrite16 ((stringHart 0 0x0B04 0).target 2 j)) ∧
      ((Cpu.bombed 63 (stringCpu 0 0x0B04 0)).writeFault ((stringHart 0 0x0B04 0).target 2 126) [0, 0]).isSome = true) ∧
    (∀ j, j < 127 → (stringCpu 0 0x0B02 0).CanWrite16 ((stringHart 0 0x0B02 0).target 2 j)) ∧
      ((Cpu.bombed 63 (stringCpu 0 0x0B02 0)).writeFault ((stringHart 0 0x0B02 0).target 2 127) [0, 0]).isSome = true := by
  refine ⟨rfl, by decide, ?_⟩
  unfold Cpu.CanWrite16 Cpu.CanWrite8
  decide +kernel

/-- The smart bomb part-way: the first word looked at denied at its low and at its high byte; the second word denied after a
match of the first; the same after a place whose first word matches and whose second does not, and after three places
without a match; the replacement denied at its first word and at its second, in data that may be read. -/
theorem witness_GameInstructions_bomb1_denied :
    (stateOf (stringHart 0 0x0C00 0)).Running (stringHart 0 0x0C00 0) ∧ (stringHart 0 0x0C00 0).bomb1 ≠ 0 ∧
    ((stringCpu 0 0x0C00 0).readFault 2 ⟨0x2000, 0x0C00⟩).isSome = true ∧
    ((stringCpu 0 0x0BFF 0).readFault 2 ⟨0x2000, 0x0BFF⟩).isSome = true ∧
    ((stringCpu 0 0x0BFE 0).CanRead16 ⟨0x2000, 0x0BFE⟩ ∧ (stringCpu 0 0x0BFE 0).wordAt ⟨0x2000, 0x0BFE⟩ = 0 ∧
      ((stringCpu 0 0x0BFE 0).readFault 2 ⟨0x2000, 0x0C00⟩).isSome = true) ∧
    ((stringCpu 0 0x0BFC 0).CanRead16 ⟨0x2000, 0x0BFC⟩ ∧ (stringCpu 0 0x0BFC 0).wordAt ⟨0x2000, 0x0BFC⟩ = 0 ∧
      (stringCpu 0 0x0BFC 0).CanRead16 ⟨0x2000, 0x0BFE⟩ ∧ (stringCpu 0 0x0BFC 0).wordAt ⟨0x2000, 0x0BFE⟩ ≠ 1 ∧
      ((stringCpu 0 0x0BFC 0).readFault 2 ⟨0x2000, 0x0BFF⟩).isSome = true) ∧
    ((∀ j, j < 3 → (stringCpu 0 0x0BFC 0).CanRead16 ⟨0x2000, 0x0BFC + BitVec.ofNat 16 j⟩ ∧
        (stringCpu 0 0x0BFC 0).wordAt ⟨0x2000, 0x0BFC + BitVec.ofNat 16 j⟩ ≠ 1) ∧
      ((stringCpu 0 0x0BFC 0).readFault 2 ⟨0x2000, 0x0BFF⟩).isSome = true) ∧
    (let h := { stringHart 0 0 0 with perm := [⟨0x20002, 3⟩, ⟨0x100000, 1⟩] }
     let c := (stateOf h).cpu h
     c.CanRead16 ⟨0x2000, 2⟩ ∧ (c.writeFault ⟨0x2000, 2⟩ [0, 0]).isSome = true ∧
       c.CanRead16 ⟨0x2000, 4⟩ ∧ c.CanWrite16 ⟨0x2000, 0⟩ ∧
       ((c.store16 ⟨0x2000, 0⟩ 0).writeFault ⟨0x2000, 2⟩ [0, 0]).isSome = true) := by
  refine ⟨rfl, by decide, ?_⟩
  unfold Cpu.CanRead16 Cpu.CanRead8 Cpu.CanWrite16 Cpu.CanWrite8
  decide +kernel

/-- A hart whose segment ES begins a page below the arena: the smart bomb finds 0x00CC at its last place alone. -/
def lastPlaceHart : Hart := { freeHart with ES := 0x0F00, DI := 0, AX := 0x00CC, DX := 0 }

/-- A byte of that segment at reset: 0 below the arena, 0xCC in it. -/
theorem lastPlace_byte (o : Word) :
    (freeState.cpu lastPlaceHart).byteAt ⟨0x0F00, o⟩ = if o.toNat < 0x1000 then 0 else 0xCC := by
  have e : lin Config.hardware ⟨0x0F00, o⟩ = 0xF000 + o.toNat := by
    have := o.isLt
    show (0x0F00 * 16 + o.toNat) % 0x100000 = _
    omega
  have := o.isLt
  show fillAt Config.hardware (lin Config.hardware ⟨0x0F00, o⟩) = _
  rw [e]
  show (if 0x10000 ≤ 0xF000 + o.toNat ∧ 0xF000 + o.toNat < 0x20000 then (0xCC : Byte) else 0) = _
  by_cases h : o.toNat < 0x1000
  · rw [if_pos h, if_neg (by omega)]
  · rw [if_neg h, if_pos (by omega)]

/-- The smart bomb's last place, 65535 bytes on: no place before it holds AX, and there AX and DX stand. -/
theorem witness_GameInstructions_bomb1_last :
    (freeState.cpu lastPlaceHart).wordAt ⟨0x0F00, 0xFFFF⟩ = 0x00CC ∧ (freeState.cpu lastPlaceHart).wordAt ⟨0x0F00, 1⟩ = 0 ∧
    ∀ j, j < 0xFFFF → (freeState.cpu lastPlaceHart).wordAt ⟨0x0F00, 0 + BitVec.ofNat 16 j⟩ ≠ 0x00CC := by
  refine ⟨by decide +kernel, by decide +kernel, fun j hj => ?_⟩
  have h0 : (0 + BitVec.ofNat 16 j : Word).toNat = j := by simp; omega
  have h1 : (0 + BitVec.ofNat 16 j + 1 : Word).toNat = j + 1 := by
    rw [BitVec.toNat_add, h0]
    show (j + 1) % 65536 = _
    omega
  unfold Cpu.wordAt
  rw [show addOffset ⟨0x0F00, 0 + BitVec.ofNat 16 j⟩ 1 = ⟨0x0F00, 0 + BitVec.ofNat 16 j + 1⟩ from rfl, lastPlace_byte,
    lastPlace_byte, h0, h1]
  by_cases h2 : j < 0x1000
  · rw [if_pos h2]
    split <;> decide
  · rw [if_neg h2, if_neg (by omega)]
    decide

/-- STOSW whose second byte is denied; MOVSB whose source is denied; REP STOSB that faults at its third element of five, at
its first of 65535, at its last; REPZ CMPSB that faults at its second element after an equal one. -/
theorem witness_StringFaultsKill :
    (stateOf (stringHart 0 0x0BFE 5)).Running (stringHart 0 0x0BFE 5) ∧
    ((stringCpu 0 0x0BFF 0).elementFault .stos 2).isSome = true ∧
    ((stringCpu 0x0C00 0 0).elementFault .movs 1).isSome = true ∧
    (∀ p ∈ ([(0x0BFE, 5, 2), (0x0C00, 0xFFFF, 0), (0x0BFF, 2, 1)] : List (Word × Word × Nat)),
      let c := stringCpu 0 p.1 p.2.1
      p.2.2 < p.2.1.toNat ∧
      (∀ j, j < p.2.2 → ((Cpu.repeated Cpu.stosb neverStop j c).elementFault .stos 1).isNone = true ∧
        neverStop (Cpu.repeated Cpu.stosb neverStop (j + 1) c).hart.flags = false) ∧
      ((Cpu.repeated Cpu.stosb neverStop p.2.2 c).elementFault .stos 1).isSome = true) ∧
    (let c := stringCpu 0 0x0BFF 0xFFFF
     (∀ j, j < 1 → ((Cpu.repeated Cpu.cmpsb neverStop j c).elementFault .cmps 1).isNone = true ∧
        stopNotZero (Cpu.repeated Cpu.cmpsb neverStop (j + 1) c).hart.flags = false) ∧
      ((Cpu.repeated Cpu.cmpsb neverStop 1 c).elementFault .cmps 1).isSome = true) := by
  refine ⟨rfl, ?_⟩
  decide +kernel

theorem witness_KillEffect : (stateOf harnessHart).Running harnessHart := rfl

/-- Energies at the ends of their ranges; the least MAX_SPEED and that of R9. -/
theorem witness_SpeedIsBitLength :
    16 ≤ Config.hardware.maxSpeed ∧ (1 : Word) ≠ 0 ∧ (0xFFFF : Word) ≠ 0 ∧ (0x7FFF : Word) ≤ 0x8000 := by decide

/-- Every clause of TurnOfAHart: Energy 0xFFFF makes every draw succeed, Energy 0 none; decay in round 5. -/
theorem witness_TurnOfAHart :
    (let h := { harnessHart with energy := 0xFFFF }
     let s := stateOf h
     s.Running h ∧ h.alive = true ∧ s.params.legal = true ∧ s.phase = .mandatory ∧
       s.round % s.params.decelerationRounds ≠ 0 ∧ s.params.draw s.drawCount < speed s.params h.energy) ∧
    ((stateOf harnessHart).Running harnessHart ∧
      speed Config.hardware 0 ≤ Config.hardware.draw (stateOf harnessHart).drawCount) ∧
    (let s := { stateOf harnessHart with phase := .extra, round := 5 }
     s.Running harnessHart ∧ s.phase = .extra ∧ s.round % s.params.decelerationRounds = 0) := by
  have h16 : speed Config.hardware 0xFFFF = 16 := by decide
  refine ⟨⟨rfl, rfl, by decide, rfl, by decide, ?_⟩, ⟨rfl, Nat.zero_le _⟩, ⟨rfl, rfl, rfl⟩⟩
  show _ < speed Config.hardware 0xFFFF
  rw [h16]
  exact Nat.mod_lt _ (by decide)

/-- The next hart lives; the last hart's turn is over. -/
theorem witness_TurnsInLoadOrder :
    (let s := stateOf harnessHart
     ∃ h, s.turn < 1 ∧ s.harts[1]? = some h ∧ h.alive = true ∧ ∀ u g, s.turn < u → u < 1 → s.harts[u]? = some g → g.alive = false) ∧
    (let s := { stateOf harnessHart with turn := 1 }
     ∀ u g, s.turn < u → s.harts[u]? = some g → g.alive = false) := by
  refine ⟨⟨_, by decide, rfl, rfl, fun u g h1 h2 => ?_⟩, fun u g h1 h2 => ?_⟩
  · have h1 : 0 < u := h1
    omega
  · have h1 : 1 < u := h1
    have : u < 2 := (List.getElem?_eq_some_iff.mp h2).1
    omega

/-- Every clause of RoundBoundary: one hart left, the round cap, an abort, and a round that begins. -/
theorem witness_RoundBoundary :
    (let s := { State.reset with aliveCount := 1 }
     s.endReason = none ∧ s.phase = .boundary ∧ s.aliveCount < 2) ∧
    (let s := { State.reset with round := 200000 }
     s.endReason = none ∧ s.phase = .boundary ∧ 2 ≤ s.aliveCount ∧ s.round = s.params.maxRound) ∧
    (let s := { State.reset with abort := true }
     s.endReason = none ∧ s.phase = .boundary ∧ 2 ≤ s.aliveCount ∧ s.round ≠ s.params.maxRound ∧ s.abort = true) ∧
    (let s := State.reset
     s.endReason = none ∧ s.phase = .boundary ∧ 2 ≤ s.aliveCount ∧ s.round ≠ s.params.maxRound ∧ s.abort = false ∧
       ∃ h, s.harts[0]? = some h ∧ h.alive = true ∧ ∀ u g, u < 0 → s.harts[u]? = some g → g.alive = false) := by
  refine ⟨⟨rfl, rfl, by decide⟩, ⟨rfl, rfl, by decide, rfl⟩, ⟨rfl, rfl, by decide, by decide, rfl⟩,
    ⟨rfl, rfl, by decide, by decide, rfl, _, rfl, rfl, fun u _ h => absurd h (Nat.not_lt_zero u)⟩⟩

/-- A legal configuration, so that EveryResetMeetsInv, ResetRegisters, ResetGrants, ResetMemory say something; an
illegal one, for the other side of ResetErrors; and MAX_REGIONS at the least value of its first clause. -/
theorem witness_resets :
    (resetBlock (twoLoops 0x0400 0xFBFE)).isSome = true ∧ (resetBlock (twoLoops 0x0400 0xFBFF)).isSome = false ∧
    6 ≤ ({ maxRegions := 6 } : Config.Params).maxRegions ∧
    (resetBlock (twoLoopsWith { maxRegions := 6 })).isSome = true := by
  decide

theorem witness_EveryResetMeetsInv : ∃ s, resetBlock (twoLoops 0x0400 0x0802) = some s :=
  Option.isSome_iff_exists.mp (by decide)

theorem witness_ResetRegisters :
    ∃ s h, resetBlock (twoLoops 0x0400 0x0802) = some s ∧ s.harts[1]? = some h := ⟨_, _, rfl, rfl⟩

theorem witness_ResetGrants :
    ∃ s h, resetBlock (twoLoops 0x0400 0x0802) = some s ∧ h ∈ s.harts ∧ 0xFFFFF < Config.hardware.memorySize :=
  ⟨_, _, rfl, .head _, by decide⟩

/-- The last byte of the second image, and an address in the gap after it. -/
theorem witness_ResetMemory :
    ∃ s v, resetBlock (twoLoops 0x0400 0x0802) = some s ∧ v ∈ (twoLoops 0x0400 0x0802).warriors ∧
      v.image[1]? = some 0xFE ∧
      ∀ w ∈ (twoLoops 0x0400 0x0802).warriors,
        0x10804 < 0x10000 + w.loadOffset ∨ 0x10000 + w.loadOffset + w.image.length ≤ 0x10804 :=
  ⟨_, _, rfl, .head _, rfl, by decide⟩

/-- The longest encoding, with displacement and immediate at their ends. -/
theorem witness_DecodeEncode : (Instr.addEwImm16 (.mem (.disp16 .bp 0xFFFF)) 0x8000).wf = true := rfl

theorem witness_DecodeIsEncoding :
    decode [0xC7, 0x06, 0x00, 0x02, 0xCC, 0xCC] = .ok (.movEwImm16 (.mem (.absolute 0x0200)) 0xCCCC, []) ∧
    Config.maxInstrBytes ≤ [0xC7, 0x06, 0x00, 0x02, 0xCC, 0xCC].length := ⟨rfl, by decide⟩

/-- The harness hart stands before arena fill: CC, INT3. -/
theorem witness_StepRunsDecoded :
    let s := stateOf harnessHart
    s.endReason = none ∧ s.phase ≠ .boundary ∧ s.Running harnessHart ∧ harnessHart.alive = true ∧
    Instr.wf .int3 = true ∧
    decode (fetchBytes s.params harnessHart.perm s.mem harnessHart.CS Config.maxInstrBytes harnessHart.IP) =
      .ok (.int3, [0xCC, 0xCC, 0xCC, 0xCC, 0xCC]) := by
  refine ⟨rfl, by decide, rfl, rfl, rfl, ?_⟩
  decide

theorem witness_StepRunsEncoded :
    let s := stateOf harnessHart
    s.endReason = none ∧ s.phase ≠ .boundary ∧ s.Running harnessHart ∧ harnessHart.alive = true ∧
    Instr.wf .int3 = true ∧
    ∀ k, k < (encode .int3).length →
      allowed s.params harnessHart.perm (lin s.params ⟨harnessHart.CS, harnessHart.IP + BitVec.ofNat 16 k⟩) .execute = true ∧
      (encode .int3)[k]? = some (s.mem.read s.params (lin s.params ⟨harnessHart.CS, harnessHart.IP + BitVec.ofNat 16 k⟩)) := by
  refine ⟨rfl, by decide, rfl, rfl, rfl, ?_⟩
  decide

/-- A hart whose second instruction byte lies past the arena: B8 at 0x1FFFF, MOV AX without its immediate. -/
theorem witness_FetchDeniedKills :
    let h := { harnessHart with CS := 0x1FFF, IP := 0x000F }
    let s := { stateOf h with mem := ⟨[(0x1FFFF, 0xB8)]⟩ }
    s.endReason = none ∧ s.phase ≠ .boundary ∧ s.Running h ∧ h.alive = true ∧ ([0xB8] : List Byte).length = 1 ∧
    (∀ k, k < 1 →
      allowed s.params h.perm (lin s.params ⟨h.CS, h.IP + BitVec.ofNat 16 k⟩) .execute = true ∧
      ([0xB8] : List Byte)[k]? = some (s.mem.read s.params (lin s.params ⟨h.CS, h.IP + BitVec.ofNat 16 k⟩))) ∧
    (∀ i rest, decode [0xB8] ≠ .ok (i, rest)) ∧
    allowed s.params h.perm (lin s.params ⟨h.CS, h.IP + BitVec.ofNat 16 1⟩) .execute = false := by
  refine ⟨rfl, by decide, rfl, rfl, rfl, by decide, fun i rest h => ?_, by decide⟩
  have h1 : decode [0xB8] = .error .truncated := rfl
  rw [h1] at h
  cases h

/-- The last address, and two spellings of one address. -/
theorem witness_AddressArithmetic :
    Config.hardware.legal = true ∧ 0xFFFFF < Config.hardware.memorySize ∧
    sameAddress freeCpu.params ⟨0xFFFF, 0x000F⟩ ⟨0xF001, 0xFFEF⟩ = true := by decide

theorem witness_AllowedIsRegionBit :
    tableWf Config.hardware perm0 = true ∧ 0xFFFFF < Config.hardware.memorySize := by decide

/-- A grant of the last byte that fits; a table as long as MAX_REGIONS that a grant makes longer. -/
theorem witness_GrantSetsRange :
    tableWf Config.hardware perm0 = true ∧ (7 : Byte) &&& ~~~Config.hardware.permAll = 0 ∧
    (grant Config.hardware perm0 0xFFFFF 1 7).isSome = true ∧
    (let p : Config.Params := { maxRegions := 3 }
     tableWf p perm0 = true ∧ p.maxRegions < (grantTable p perm0 0x18000 0x10 1).length ∧
       grant p perm0 0x18000 0x10 1 = none) := by
  decide

theorem witness_MemoryIsItsBytes :
    (⟨[(0, 1), (0xFFFFF, 2)]⟩ : Memory).wf Config.hardware = true ∧ 0 < Config.hardware.memorySize ∧
    0xFFFFF < Config.hardware.memorySize ∧ 0 ≠ 0xFFFFF := by
  decide

/-- An address beside the stored word, where the word wraps in its segment. -/
theorem witness_WordsAreLittleEndian :
    freeCpu.params.legal = true ∧ 1 < freeCpu.params.memorySize ∧
    0 ≠ lin freeCpu.params ⟨0x1000, 0xFFFF⟩ ∧ 0 ≠ lin freeCpu.params ⟨0x1000, 0xFFFF + 1⟩ := by decide

/-- A block inside round 1 that meets the invariant and steps: INT3 in hart 0, which dies of it. -/
theorem witness_StepKeepsInv :
    (stateOf harnessHart).Inv ∧ ∃ t, step (stateOf harnessHart) = .next t := by
  refine ⟨⟨by decide, by decide, by decide, by decide, by decide,
    by decide, by decide, fun _ => ⟨rfl, by decide, _, rfl, rfl⟩⟩, ?_⟩
  refine ⟨_, rfl⟩

/-- A block whose war has ended, and one whose war goes on. -/
theorem witness_StepGoesOnUntilTheEnd :
    (stateOf harnessHart).endReason = none ∧
    (let s := { State.reset with endReason := some .aborted }
     s.Inv ∧ s.endReason ≠ none) := by
  refine ⟨rfl, ⟨by decide, by decide, by decide, by decide, by decide,
    by decide, by decide, fun h => absurd rfl h⟩, by decide⟩

theorem witness_StepKeepsPermanentState :
    ∃ t g, step (stateOf harnessHart) = .next t ∧ (stateOf harnessHart).harts[0]? = some g := ⟨_, _, rfl, rfl⟩

theorem witness_StepChangesOneHart :
    ∃ t, step (stateOf harnessHart) = .next t ∧ 1 ≠ (stateOf harnessHart).turn := ⟨_, rfl, by decide⟩

theorem witness_UnwritableBytesStay :
    ∃ t, (stateOf harnessHart).Running harnessHart ∧ step (stateOf harnessHart) = .next t ∧
      allowed Config.hardware harnessHart.perm 0x0FFFF .write = false :=
  ⟨_, rfl, rfl, by decide⟩

theorem witness_WritesAreEvents :
    ∃ t, (stateOf harnessHart).Running harnessHart ∧ step (stateOf harnessHart) = .next t := ⟨_, rfl, rfl⟩

/-- An instruction that writes a register, one that transfers control, one that stores: each answers a next state. -/
theorem witness_frames :
    ∀ i ∈ ([.movReg8Imm8 .AH 0x12, .jmpRel8 0x80, .pushImm16 0x1234, .stc] : List Instr),
      i.wf = true ∧ freeState.Running freeHart ∧ ∃ t g, exec i freeState = .next t ∧ t.Running g := by
  intro i hi
  simp only [List.mem_cons, List.not_mem_nil, or_false] at hi
  rcases hi with rfl | rfl | rfl | rfl
  all_goals exact ⟨rfl, rfl, _, _, rfl, rfl⟩

/-- BL stays when AH is written, and AL too; AX, which holds AH, is not claimed to stay. -/
theorem witness_RegisterFrame :
    Instr.writes16 (.movReg8Imm8 .AH 0x12) .BX = false ∧
    (∀ b : Reg8, b.wide = .BX → Instr.writes8 (.movReg8Imm8 .AH 0x12) b = false) ∧
    Instr.writes8 (.movReg8Imm8 .AH 0x12) .AL = false := by
  refine ⟨by decide, fun b => ?_, by decide⟩
  cases b <;> decide

theorem witness_SegmentAndIpFrame :
    (.ES : Sreg) ∉ Instr.sregs (.movReg8Imm8 .AH 0x12) ∧ Instr.transfers (.movReg8Imm8 .AH 0x12) = false := by decide

theorem witness_FlagFrame : ∃ t g, exec .stc freeState = .next t ∧ t.Running g := ⟨_, _, rfl, rfl⟩

/-- The byte after the word that a push stores. -/
theorem witness_MemoryFrame :
    ∃ t, freeState.Running freeHart ∧ exec (.pushImm16 0x1234) freeState = .next t ∧
      0x20401 ∉ ((Instr.pushImm16 0x1234).stores (freeState.cpu freeHart)).map (lin freeState.params) :=
  ⟨_, rfl, rfl, by decide⟩

theorem witness_OtherStateFrame :
    ∃ t g, Instr.pushImm16 0x1234 ≠ .nrg ∧ Instr.pushImm16 0x1234 ≠ .int86 ∧
      exec (.pushImm16 0x1234) freeState = .next t ∧ t.Running g := by
  refine ⟨_, _, by decide, by decide, rfl, rfl⟩

end Sys2Proof.Tests
end

section
/-! SUPPORT. Reset gives a state that meets the invariant: a grant keeps a permission table well-formed, so the tables
of R487 are; the images of R485 lie in the arena, so memory is in its canonical form; and the statements
EveryResetMeetsInv and ResetMeetsInv. -/

namespace Sys2Proof.Machine

open Sys2Proof.Config (Params)

/-! ### A grant keeps a permission table well-formed -/

/-- `tableWf`, clause by clause. -/
theorem tableWf_iff {p : Params} {T : List Region} :
    tableWf p T = true ↔ risingFrom 0 T = true ∧ tableEnd T ≤ p.memorySize ∧ T.length ≤ p.maxRegions ∧
      ∀ r ∈ T, r.perm &&& ~~~p.permAll = 0 := by
  simp only [tableWf, Bool.and_eq_true, decide_eq_true_eq, List.all_eq_true, beq_iff_eq, and_assoc]

theorem tableWf_nil (p : Params) : tableWf p [] = true := by
  simp [tableWf_iff, risingFrom, tableEnd]

/-- The region that closes the distance from where a table ends to `stop`, if there is any. -/
theorem risingFrom_closing {low stop : Nat} (perm : Byte) (h : low ≤ stop) :
    risingFrom low (if low < stop then [⟨stop, perm⟩] else []) = true ∧
      endFrom low (if low < stop then [⟨stop, perm⟩] else []) = stop := by
  split
  · simpa [risingFrom, endFrom]
  · exact ⟨rfl, by simp only [endFrom]; omega⟩

/-- The merged table of R86 rises, ends where the range or the old table does, and has the permission bytes of the old
table, the granted one and 0 (for the gap). -/
theorem grantTable_spec {p : Params} {T : List Region} (addr size : Nat) (perm : Byte)
    (rising : risingFrom 0 T = true) :
    risingFrom 0 (grantTable p T addr size perm) = true ∧
      tableEnd (grantTable p T addr size perm) = max (min (addr + size) p.memorySize) (tableEnd T) ∧
      ∀ r ∈ grantTable p T addr size perm, r.perm = perm ∨ r.perm = 0 ∨ ∃ q ∈ T, r.perm = q.perm := by
  simp only [grantTable, tableEnd_eq_endFrom]
  generalize min (addr + size) p.memorySize = hi
  generalize lo_eq : min addr hi = lo
  obtain ⟨below_rising, below_end, -⟩ := clipTable_rising (lo := lo) rising
  obtain ⟨gap_rising, gap_end⟩ := risingFrom_closing (stop := lo) 0 (by omega : endFrom 0 (clipTable lo 0 T) ≤ lo)
  obtain ⟨here_rising, here_end⟩ := risingFrom_closing perm (by omega : lo ≤ hi)
  obtain ⟨above_rising, above_end⟩ := above_rising (hi := hi) rising
  rw [Nat.zero_max] at above_rising above_end
  have parts_rising := risingFrom_append.mpr ⟨risingFrom_append.mpr ⟨risingFrom_append.mpr ⟨below_rising, gap_rising⟩,
    by rwa [endFrom_append, gap_end]⟩, by rwa [endFrom_append, endFrom_append, gap_end, here_end]⟩
  obtain ⟨merged_rising, merged_end, -, -, merged_mem, -⟩ := mergeRegions_spec parts_rising
  refine ⟨merged_rising, ?_, fun r hr => ?_⟩
  · rw [merged_end, endFrom_append, endFrom_append, endFrom_append, gap_end, here_end, above_end]
  · have below_perms : ∀ q ∈ clipTable lo 0 T, ∃ q' ∈ T, q.perm = q'.perm :=
      clipTable_forall (fun q hq => ⟨q, hq, rfl⟩) fun q hq => ⟨q, hq, rfl⟩
    simp only [List.mem_append, List.mem_ite_nil_right, List.mem_singleton, List.mem_filter] at merged_mem
    obtain ((below | ⟨-, rfl⟩) | ⟨-, rfl⟩) | ⟨above, -⟩ := merged_mem r hr
    · exact .inr (.inr (below_perms r below))
    · exact .inr (.inl rfl)
    · exact .inl rfl
    · exact .inr (.inr ⟨r, above, rfl⟩)

/-- R86 and R87: what a grant answers is well-formed where the old table was. -/
theorem grant_wf {p : Params} {T U : List Region} {addr size : Nat} {perm : Byte} (wf : tableWf p T = true)
    (bits : perm &&& ~~~p.permAll = 0) (granted : grant p T addr size perm = some U) : tableWf p U = true := by
  obtain ⟨rising, ends, -, perms⟩ := tableWf_iff.mp wf
  unfold grant at granted
  split at granted
  · exact Option.some.inj granted ▸ wf
  · split at granted
    · next fits =>
      obtain ⟨new_rising, new_end, new_perms⟩ := grantTable_spec (p := p) addr size perm rising
      rw [← Option.some.inj granted, tableWf_iff, new_end]
      refine ⟨new_rising, by omega, fits, fun r hr => ?_⟩
      obtain e | e | ⟨q, hq, e⟩ := new_perms r hr <;> rw [e]
      · exact bits
      · exact BitVec.zero_and
      · exact perms q hq
    · contradiction

/-! ### The harts -/

theorem permAll_bits (p : Params) : p.permAll &&& ~~~p.permAll = 0 := BitVec.and_not_self _

theorem permData_bits (p : Params) : p.permData &&& ~~~p.permAll = 0 := by
  have all_eq : p.permAll = p.permData ||| p.permExec := rfl
  rw [all_eq, BitVec.not_or, ← BitVec.and_assoc, BitVec.and_not_self]
  exact BitVec.zero_and

/-- The table of a hart at reset (R487) is well-formed. -/
theorem resetPerm_wf {p : Params} {info : WarriorInfo} {T : List Region} (h : resetPerm p info = some T) :
    tableWf p T = true := by
  simp only [resetPerm, Option.bind_eq_bind, Option.bind_eq_some_iff] at h
  obtain ⟨arena, arena_granted, stack, stack_granted, shared_granted⟩ := h
  have arena_wf := grant_wf (tableWf_nil p) (permAll_bits p) arena_granted
  have stack_wf := grant_wf arena_wf (permData_bits p) stack_granted
  exact grant_wf stack_wf (permData_bits p) shared_granted

/-- Reset makes one hart of each record, alive and with a well-formed table (R488). -/
theorem resetHarts_spec {p : Params} : ∀ {infos : List WarriorInfo} {hs : List Hart}, resetHarts p infos = some hs →
    hs.length = infos.length ∧ ∀ h ∈ hs, h.alive = true ∧ tableWf p h.perm = true
  | [], hs, made => by
    cases made
    simp
  | info :: rest, hs, made => by
    simp only [resetHarts, Option.bind_eq_bind, Option.bind_eq_some_iff, Option.pure_def, Option.some.injEq] at made
    obtain ⟨T, granted, others, others_made, rfl⟩ := made
    obtain ⟨len, good⟩ := resetHarts_spec others_made
    exact ⟨by rw [List.length_cons, List.length_cons, len],
      List.forall_mem_cons.mpr ⟨⟨rfl, resetPerm_wf granted⟩, good⟩⟩

/-! ### Memory -/

theorem empty_memory_wf (p : Params) : (⟨[]⟩ : Memory).wf p = true := rfl

/-- Images that lie in the arena leave memory in its canonical form (R484, R485). -/
theorem images_wf {p : Params} (legal : p.legal = true) {ws : List WarriorConfig} {m : Memory} (wf : m.wf p = true)
    (inside : ∀ w ∈ ws, w.insideArena p = true) :
    (ws.foldl (fun m w => m.writeBytes p (p.arenaBase + w.loadOffset) w.image) m).wf p = true := by
  induction ws generalizing m with
  | nil => exact wf
  | cons w ws ih =>
    obtain ⟨w_inside, ws_inside⟩ := List.forall_mem_cons.mp inside
    obtain ⟨-, -, -, -, -, -, arena, -⟩ := Params.legal_spec legal
    simp only [WarriorConfig.insideArena, Bool.and_eq_true, decide_eq_true_eq] at w_inside
    exact ih (writeBytes_wf w.image wf (by unfold Params.arenaEnd at arena; omega)) ws_inside

/-! ### The whole -/

/-- What reset answers, once: a legal, valid and placed configuration, blocks that fit, harts whose grants fit, and the
state of R490 over them. -/
theorem resetBlock_spec {c : ResetConfig} {s : State} (h : resetBlock c = some s) :
    c.params.legal = true ∧ c.valid = true ∧ c.placed = true ∧
      (allocGroups c.params 0 c.params.arenaEnd c.groups).2 ≤ c.params.memorySize ∧
      ∃ hs, resetHarts c.params (allocGroups c.params 0 c.params.arenaEnd c.groups).1 = some hs ∧
        s = { params := c.params, harts := hs, mem := c.memory, round := 0, turn := 0, phase := .boundary,
              aliveCount := hs.length, deathCount := 0, endReason := none, abort := false, drawCount := 0,
              undefCount := 0, events := birthEvents hs.length ++ [.warStart] } := by
  unfold resetBlock at h
  split at h
  · next accepted =>
    simp only [Bool.and_eq_true, and_assoc] at accepted
    obtain ⟨legal, valid, placed⟩ := accepted
    dsimp only at h
    split at h
    · next fits =>
      split at h
      · contradiction
      · next hs made => exact ⟨legal, valid, placed, fits, hs, made, (Option.some.inj h).symm⟩
    · contradiction
  · contradiction

/-- A valid configuration has two warriors or more (R483). -/
theorem two_le_warriors {c : ResetConfig} (valid : c.valid = true) : 2 ≤ c.warriors.length := by
  simp only [ResetConfig.valid, Bool.and_eq_true, decide_eq_true_eq] at valid
  exact valid.1.1

/-- Settles O14: the harts, tables and memory that reset makes are those the invariant asks for, and at the boundary
before round 0 it asks nothing of the hart whose turn it is. -/
theorem everyResetMeetsInv : Obligations.EveryResetMeetsInv := by
  intro c s h
  obtain ⟨legal, valid, placed, -, hs, made, rfl⟩ := resetBlock_spec h
  obtain ⟨len, good⟩ := resetHarts_spec made
  have inside : ∀ w ∈ c.warriors, w.insideArena c.params = true := by
    simp only [ResetConfig.placed, Bool.and_eq_true, List.all_eq_true] at placed
    exact placed.1
  have one_each : hs.length = c.warriors.length := len.trans (allocGroups_spec c.params c.groups 0 _).2.1
  refine ⟨rfl, legal, images_wf legal (empty_memory_wf _) inside, ?_, rfl, ?_, fun h hh => (good h hh).2, Nat.zero_le _,
    fun inRound => absurd rfl inRound⟩
  · exact (List.countP_eq_length.mpr fun h hh => (good h hh).1).symm
  · exact one_each ▸ Nat.zero_lt_of_lt (two_le_warriors valid)

/-- `State.reset` is what reset answers for the configuration of log 2 (R480 to R490), evaluated. -/
theorem resetBlock_eq_reset :
    resetBlock { groups := [[⟨"warrior0", [0xCC], 0x400⟩], [⟨"warrior1", [0xCC], 0x2000⟩]] } = some State.reset := by
  decide +kernel

/-- Settles O13: `State.reset` is the answer for log 2's configuration, and every answer of reset meets the
invariant. -/
theorem resetMeetsInv : Obligations.ResetMeetsInv :=
  ⟨(everyResetMeetsInv _ _ resetBlock_eq_reset).2, resetBlock_eq_reset, rfl⟩

end Sys2Proof.Machine
end

section
/-! SUPPORT. What the ALU operations compute, by integer arithmetic: `ADD_n` and `SUB_n` of R16 (result, carry, signed
overflow, half carry), then the flags of R172 to R178; and the statement AluResults. -/

namespace Sys2Proof.Machine

/-! ### Signed wrap-around -/

/-- The sign of an integer of at most twice the signed range after it is cut to `n` bits: a value in range keeps its
sign, one past either end changes it. -/
theorem msb_ofInt_of_bounds {n : Nat} (hn : 0 < n) {t : Int} (lo : -2 ^ n ≤ t) (hi : t < 2 ^ n) :
    (BitVec.ofInt n t).msb = decide ((-2 ^ (n - 1) ≤ t ∧ t < 0) ∨ 2 ^ (n - 1) ≤ t) := by
  have double : (2 : Int) ^ n = 2 * 2 ^ (n - 1) := (mul_pow_sub_one hn.ne' 2).symm
  have half_pos : (0 : Int) < 2 ^ (n - 1) := by positivity
  have cut : (BitVec.ofInt n t).toNat = if 0 ≤ t then t else t + 2 ^ n := by
    rw [BitVec.toNat_ofInt, Int.toNat_of_nonneg (Int.emod_nonneg _ (by positivity))]
    push_cast
    split
    · exact Int.emod_eq_of_lt ‹_› hi
    · rw [← Int.add_emod_right, Int.emod_eq_of_lt (by omega) (by omega)]
  rw [BitVec.msb_eq_decide, decide_eq_decide, ← Int.ofNat_le, cut]
  push_cast
  split <;> omega

theorem ofInt_sub {n : Nat} (x y : Int) : BitVec.ofInt n (x - y) = BitVec.ofInt n x - BitVec.ofInt n y := by
  rw [Int.sub_eq_add_neg, BitVec.ofInt_add, BitVec.ofInt_neg, BitVec.sub_eq_add_neg]

/-! ### `ADD_n` and `SUB_n` -/

theorem addN_result {n : Nat} (a b : BitVec n) (c : Bool) :
    (addN a b c).result = a + b + BitVec.ofNat n c.toNat := by
  simp only [addN, BitVec.ofNat_add, BitVec.ofNat_toNat, BitVec.setWidth_eq]

theorem subN_result {n : Nat} (a b : BitVec n) (c : Bool) :
    (subN a b c).result = a - b - BitVec.ofNat n c.toNat := by
  simp only [subN, ofInt_sub, BitVec.ofInt_natCast, BitVec.ofNat_toNat, BitVec.setWidth_eq]

/-- The result of `ADD_n` is the signed sum cut to `n` bits. -/
theorem addN_result_signed {n : Nat} (a b : BitVec n) (c : Bool) :
    (addN a b c).result = BitVec.ofInt n (a.toInt + b.toInt + c.toNat) := by
  simp only [addN_result, BitVec.ofInt_add, BitVec.ofInt_toInt, BitVec.ofInt_natCast]

/-- The result of `SUB_n` is the signed difference cut to `n` bits. -/
theorem subN_result_signed {n : Nat} (a b : BitVec n) (c : Bool) :
    (subN a b c).result = BitVec.ofInt n (a.toInt - b.toInt - c.toNat) := by
  simp only [subN_result, ofInt_sub, BitVec.ofInt_toInt, BitVec.ofInt_natCast]

theorem addN_CF_iff {n : Nat} (a b : BitVec n) (c : Bool) :
    (addN a b c).CF = true ↔ 2 ^ n ≤ a.toNat + b.toNat + c.toNat := decide_eq_true_iff

theorem addN_AF_iff {n : Nat} (a b : BitVec n) (c : Bool) :
    (addN a b c).AF = true ↔ 16 ≤ a.toNat % 16 + b.toNat % 16 + c.toNat := decide_eq_true_iff

theorem subN_CF_iff {n : Nat} (a b : BitVec n) (c : Bool) :
    (subN a b c).CF = true ↔ a.toNat < b.toNat + c.toNat := decide_eq_true_iff

theorem subN_AF_iff {n : Nat} (a b : BitVec n) (c : Bool) :
    (subN a b c).AF = true ↔ a.toNat % 16 < b.toNat % 16 + c.toNat := decide_eq_true_iff

/-- OF of `ADD_n` (two operands of one sign, a result of the other) says that the signed sum is out of range. -/
theorem addN_OF_iff {n : Nat} (hn : 0 < n) (a b : BitVec n) (c : Bool) :
    (addN a b c).OF = true ↔
      a.toInt + b.toInt + c.toNat < -2 ^ (n - 1) ∨ 2 ^ (n - 1) ≤ a.toInt + b.toInt + c.toNat := by
  have double : (2 : Int) ^ n = 2 * 2 ^ (n - 1) := (mul_pow_sub_one hn.ne' 2).symm
  have a_lo := BitVec.le_toInt a
  have a_hi := BitVec.toInt_lt (x := a)
  have b_lo := BitVec.le_toInt b
  have b_hi := BitVec.toInt_lt (x := b)
  have carry := c.toNat_le
  have sign := msb_ofInt_of_bounds hn (t := a.toInt + b.toInt + c.toNat) (by omega) (by omega)
  rw [← addN_result_signed] at sign
  have of_eq : (addN a b c).OF = (a.msb == b.msb && (addN a b c).result.msb != a.msb) := rfl
  rw [of_eq, sign, BitVec.msb_eq_toInt, BitVec.msb_eq_toInt, Bool.and_eq_true, beq_iff_eq, bne_iff_ne, Ne, decide_eq_decide,
    decide_eq_decide]
  omega

/-- OF of `SUB_n` (operands of two signs, a result of the subtrahend's) says that the signed difference is out of
range. -/
theorem subN_OF_iff {n : Nat} (hn : 0 < n) (a b : BitVec n) (c : Bool) :
    (subN a b c).OF = true ↔
      a.toInt - b.toInt - c.toNat < -2 ^ (n - 1) ∨ 2 ^ (n - 1) ≤ a.toInt - b.toInt - c.toNat := by
  have double : (2 : Int) ^ n = 2 * 2 ^ (n - 1) := (mul_pow_sub_one hn.ne' 2).symm
  have a_lo := BitVec.le_toInt a
  have a_hi := BitVec.toInt_lt (x := a)
  have b_lo := BitVec.le_toInt b
  have b_hi := BitVec.toInt_lt (x := b)
  have borrow := c.toNat_le
  have sign := msb_ofInt_of_bounds hn (t := a.toInt - b.toInt - c.toNat) (by omega) (by omega)
  rw [← subN_result_signed] at sign
  have of_eq : (subN a b c).OF = (a.msb != b.msb && (subN a b c).result.msb != a.msb) := rfl
  rw [of_eq, sign, BitVec.msb_eq_toInt, BitVec.msb_eq_toInt, Bool.and_eq_true, bne_iff_ne, bne_iff_ne, Ne, Ne,
    decide_eq_decide, decide_eq_decide]
  omega

/-! ### The flags of the family -/

/-- Every operation of the family says sign, zero and parity of its result (R16). -/
theorem AluOp.apply_szp {n : Nat} (op : AluOp) (a b : BitVec n) (f : Flags) (u : Word) :
    let r := (op.apply a b f u).1
    let g := (op.apply a b f u).2
    g.SF = r.msb ∧ g.ZF = (r == 0) ∧ g.PF = evenParity r := by
  cases op <;> exact ⟨rfl, rfl, rfl⟩

theorem evenParity_iff {n : Nat} (r : BitVec n) :
    evenParity r = true ↔ ((List.range 8).countP fun k => r.getLsbD k) % 2 = 0 := beq_iff_eq

/-- Settles O27: the two arithmetic helpers by integers, the rest of the flags operation by operation. -/
theorem aluResults : Obligations.AluResults := by
  intro n width a b f u
  have hn : 0 < n := by omega
  have no_carry (x : BitVec n) : x + BitVec.ofNat n false.toNat = x := BitVec.add_zero x
  have no_borrow (x : BitVec n) : x - BitVec.ofNat n false.toNat = x := BitVec.sub_zero x
  refine ⟨(addN_result a b false).trans (no_carry _), addN_result a b f.CF, (subN_result a b false).trans (no_borrow _),
    subN_result a b f.CF, rfl, rfl, rfl, rfl, rfl, fun p hp => ?sums, fun p hp => ?differences, fun op hop => ?bitwise,
    fun op => ?szp⟩
  case sums =>
    simp only [List.mem_cons, List.not_mem_nil, or_false] at hp
    rcases hp with rfl | rfl
    · exact ⟨addN_CF_iff a b false, addN_OF_iff hn a b false, addN_AF_iff a b false⟩
    · exact ⟨addN_CF_iff a b f.CF, addN_OF_iff hn a b f.CF, addN_AF_iff a b f.CF⟩
  case differences =>
    simp only [List.mem_cons, List.not_mem_nil, or_false] at hp
    rcases hp with rfl | rfl
    · exact ⟨subN_CF_iff a b false, subN_OF_iff hn a b false, subN_AF_iff a b false⟩
    · exact ⟨subN_CF_iff a b f.CF, subN_OF_iff hn a b f.CF, subN_AF_iff a b f.CF⟩
  case bitwise =>
    simp only [List.mem_cons, List.not_mem_nil, or_false] at hop
    rcases hop with rfl | rfl | rfl <;> exact ⟨rfl, rfl, rfl⟩
  case szp =>
    obtain ⟨sign, zero, parity⟩ := op.apply_szp a b f u
    exact ⟨sign, by rw [zero, beq_iff_eq], by rw [parity, evenParity_iff], outside_apply op a b f u⟩

end Sys2Proof.Machine
end

section
/-! SUPPORT. The decoder reads nothing but encodings of well-formed instructions: the opcode map row by row, each row by
the operand forms of its entries (R124 to R137). A row's lemma is stated for the byte that selects each entry. -/

namespace Sys2Proof

/-! ### The opcode groups -/

theorem readsOnly_group80 : ReadsOnly 5 [0x80] (opGroup group80) := by
  refine readsOnly_op_group ?_ ?_ ?_ ?_ ?_ ?_ ?_ ?_ <;> exact subReadsOnly_rm8i fun _ _ h => ⟨h, rfl⟩

theorem readsOnly_group81 : ReadsOnly 5 [0x81] (opGroup group81) := by
  refine readsOnly_op_group ?_ ?_ ?_ ?_ ?_ ?_ ?_ ?_ <;> exact subReadsOnly_rm16w fun _ _ h => ⟨h, rfl⟩

theorem readsOnly_group83 : ReadsOnly 5 [0x83] (opGroup group83) := by
  refine readsOnly_op_group ?_ ?_ ?_ ?_ ?_ ?_ ?_ ?_ <;> exact subReadsOnly_rm16i fun _ _ h => ⟨h, rfl⟩

theorem readsOnly_group8F : ReadsOnly 5 [0x8F] (opGroup group8F) := by
  refine readsOnly_op_group (subReadsOnly_rm16 fun _ h => ⟨h, rfl⟩) ?_ ?_ ?_ ?_ ?_ ?_ ?_ <;>
    exact subReadsOnly_inv fun _ _ => ⟨rfl, rfl⟩

theorem readsOnly_groupC0 : ReadsOnly 5 [0xC0] (opGroup groupC0) := by
  refine readsOnly_op_group ?_ ?_ ?_ ?_ ?_ ?_ (subReadsOnly_inv fun _ _ => ⟨rfl, rfl⟩) ?_ <;>
    exact subReadsOnly_rm8i fun _ _ h => ⟨h, rfl⟩

theorem readsOnly_groupC1 : ReadsOnly 5 [0xC1] (opGroup groupC1) := by
  refine readsOnly_op_group ?_ ?_ ?_ ?_ ?_ ?_ (subReadsOnly_inv fun _ _ => ⟨rfl, rfl⟩) ?_ <;>
    exact subReadsOnly_rm16i fun _ _ h => ⟨h, rfl⟩

theorem readsOnly_groupC6 : ReadsOnly 5 [0xC6] (opGroup groupC6) := by
  refine readsOnly_op_group (subReadsOnly_rm8i fun _ _ h => ⟨h, rfl⟩) ?_ ?_ ?_ ?_ ?_ ?_ ?_ <;>
    exact subReadsOnly_inv fun _ _ => ⟨rfl, rfl⟩

theorem readsOnly_groupC7 : ReadsOnly 5 [0xC7] (opGroup groupC7) := by
  refine readsOnly_op_group (subReadsOnly_rm16w fun _ _ h => ⟨h, rfl⟩) ?_ ?_ ?_ ?_ ?_ ?_ ?_ <;>
    exact subReadsOnly_inv fun _ _ => ⟨rfl, rfl⟩

theorem readsOnly_groupD0 : ReadsOnly 5 [0xD0] (opGroup groupD0) := by
  refine readsOnly_op_group ?_ ?_ ?_ ?_ ?_ ?_ (subReadsOnly_inv fun _ _ => ⟨rfl, rfl⟩) ?_ <;>
    exact subReadsOnly_rm8 fun _ h => ⟨h, rfl⟩

theorem readsOnly_groupD1 : ReadsOnly 5 [0xD1] (opGroup groupD1) := by
  refine readsOnly_op_group ?_ ?_ ?_ ?_ ?_ ?_ (subReadsOnly_inv fun _ _ => ⟨rfl, rfl⟩) ?_ <;>
    exact subReadsOnly_rm16 fun _ h => ⟨h, rfl⟩

theorem readsOnly_groupD2 : ReadsOnly 5 [0xD2] (opGroup groupD2) := by
  refine readsOnly_op_group ?_ ?_ ?_ ?_ ?_ ?_ (subReadsOnly_inv fun _ _ => ⟨rfl, rfl⟩) ?_ <;>
    exact subReadsOnly_rm8 fun _ h => ⟨h, rfl⟩

theorem readsOnly_groupD3 : ReadsOnly 5 [0xD3] (opGroup groupD3) := by
  refine readsOnly_op_group ?_ ?_ ?_ ?_ ?_ ?_ (subReadsOnly_inv fun _ _ => ⟨rfl, rfl⟩) ?_ <;>
    exact subReadsOnly_rm16 fun _ h => ⟨h, rfl⟩

theorem readsOnly_groupF6 : ReadsOnly 5 [0xF6] (opGroup groupF6) := by
  refine readsOnly_op_group (subReadsOnly_rm8i fun _ _ h => ⟨h, rfl⟩) (subReadsOnly_inv fun _ _ => ⟨rfl, rfl⟩)
    ?_ ?_ ?_ ?_ ?_ ?_ <;> exact subReadsOnly_rm8 fun _ h => ⟨h, rfl⟩

theorem readsOnly_groupF7 : ReadsOnly 5 [0xF7] (opGroup groupF7) := by
  refine readsOnly_op_group (subReadsOnly_rm16w fun _ _ h => ⟨h, rfl⟩) (subReadsOnly_inv fun _ _ => ⟨rfl, rfl⟩)
    ?_ ?_ ?_ ?_ ?_ ?_ <;> exact subReadsOnly_rm16 fun _ h => ⟨h, rfl⟩

theorem readsOnly_groupFE : ReadsOnly 5 [0xFE] (opGroup groupFE) := by
  refine readsOnly_op_group (subReadsOnly_rm8 fun _ h => ⟨h, rfl⟩) (subReadsOnly_rm8 fun _ h => ⟨h, rfl⟩)
    ?_ ?_ ?_ ?_ ?_ ?_ <;> exact subReadsOnly_inv fun _ _ => ⟨rfl, rfl⟩

theorem readsOnly_groupFF : ReadsOnly 5 [0xFF] (opGroup groupFF) := by
  refine readsOnly_op_group ?_ ?_ ?_ (subReadsOnly_mem (fun _ h => ⟨h, rfl⟩) fun _ => ⟨rfl, rfl⟩) ?_
    (subReadsOnly_mem (fun _ h => ⟨h, rfl⟩) fun _ => ⟨rfl, rfl⟩) ?_ (subReadsOnly_inv fun _ _ => ⟨rfl, rfl⟩) <;>
    exact subReadsOnly_rm16 fun _ h => ⟨h, rfl⟩

/-! ### The bytes after F2 and F3 -/

/-- What stands after F2 (R131, R297). -/
theorem repnzRow_encoded (b : Byte) : (repnzRow b).wf = true ∧ encode (repnzRow b) = [0xF2, b] := by
  revert b; decide +kernel

/-- What stands after F3 (R131, R297). -/
theorem repRow_encoded (b : Byte) : (repRow b).wf = true ∧ encode (repRow b) = [0xF3, b] := by
  revert b; decide +kernel

/-! ### The rows of the opcode map -/

section OtherOrder

variable {pre : List Byte}

/-- A byte register and an `Eb` operand, the register first in the instruction. -/
theorem readsOnly_op_r8r {k : Reg8 → Rm8 → Instr} (h : ∀ (a : Rm8) (b : Reg8), a.wf = true →
    (k b a).wf = true ∧ encode (k b a) = pre ++ a.bytes b.index) :
    ReadsOnly 5 pre (opRmReg8 fun rm r => k r rm) := readsOnly_op_rr8 h

/-- A word register and an `Ew` operand, the register first in the instruction. -/
theorem readsOnly_op_r16r {k : Reg16 → Rm16 → Instr} (h : ∀ (a : Rm16) (b : Reg16), a.wf = true →
    (k b a).wf = true ∧ encode (k b a) = pre ++ a.bytes b.index) :
    ReadsOnly 5 pre (opRmReg16 fun rm r => k r rm) := readsOnly_op_rr16 h

/-- A segment register and an `Ew` operand, the register first in the instruction. -/
theorem readsOnly_op_srr {k : BitVec 3 → Rm16 → Instr} (h : ∀ (a : Rm16) (b : BitVec 3), a.wf = true →
    (k b a).wf = true ∧ encode (k b a) = pre ++ a.bytes b) :
    ReadsOnly 5 pre (opRmSreg fun rm r => k r rm) := readsOnly_op_sr h

end OtherOrder

theorem readsOnly_opcodeRow0 : ∀ lo, lo < 16 → ReadsOnly 5 [BitVec.ofNat 8 (0x00 + lo)] (opcodeRow0 lo)
  | 0, _ | 8, _ => readsOnly_op_rr8 fun _ _ h => ⟨h, rfl⟩
  | 1, _ | 9, _ => readsOnly_op_rr16 fun _ _ h => ⟨h, rfl⟩
  | 2, _ | 10, _ => readsOnly_op_r8r fun _ _ h => ⟨h, rfl⟩
  | 3, _ | 11, _ => readsOnly_op_r16r fun _ _ h => ⟨h, rfl⟩
  | 4, _ | 12, _ => readsOnly_op_imm8 fun _ => ⟨rfl, rfl⟩
  | 5, _ | 13, _ => readsOnly_op_imm16 fun _ => ⟨rfl, rfl⟩
  | 6, _ | 7, _ | 14, _ | 15, _ => readsOnly_op rfl rfl
  | _ + 16, h => absurd h (by omega)

theorem readsOnly_opcodeRow1 : ∀ lo, lo < 16 → ReadsOnly 5 [BitVec.ofNat 8 (0x10 + lo)] (opcodeRow1 lo)
  | 0, _ | 8, _ => readsOnly_op_rr8 fun _ _ h => ⟨h, rfl⟩
  | 1, _ | 9, _ => readsOnly_op_rr16 fun _ _ h => ⟨h, rfl⟩
  | 2, _ | 10, _ => readsOnly_op_r8r fun _ _ h => ⟨h, rfl⟩
  | 3, _ | 11, _ => readsOnly_op_r16r fun _ _ h => ⟨h, rfl⟩
  | 4, _ | 12, _ => readsOnly_op_imm8 fun _ => ⟨rfl, rfl⟩
  | 5, _ | 13, _ => readsOnly_op_imm16 fun _ => ⟨rfl, rfl⟩
  | 6, _ | 7, _ | 14, _ | 15, _ => readsOnly_op rfl rfl
  | _ + 16, h => absurd h (by omega)

theorem readsOnly_opcodeRow2 : ∀ lo, lo < 16 → ReadsOnly 5 [BitVec.ofNat 8 (0x20 + lo)] (opcodeRow2 lo)
  | 0, _ | 8, _ => readsOnly_op_rr8 fun _ _ h => ⟨h, rfl⟩
  | 1, _ | 9, _ => readsOnly_op_rr16 fun _ _ h => ⟨h, rfl⟩
  | 2, _ | 10, _ => readsOnly_op_r8r fun _ _ h => ⟨h, rfl⟩
  | 3, _ | 11, _ => readsOnly_op_r16r fun _ _ h => ⟨h, rfl⟩
  | 4, _ | 12, _ => readsOnly_op_imm8 fun _ => ⟨rfl, rfl⟩
  | 5, _ | 13, _ => readsOnly_op_imm16 fun _ => ⟨rfl, rfl⟩
  | 6, _ | 7, _ | 14, _ | 15, _ => readsOnly_op rfl rfl
  | _ + 16, h => absurd h (by omega)

theorem readsOnly_opcodeRow3 : ∀ lo, lo < 16 → ReadsOnly 5 [BitVec.ofNat 8 (0x30 + lo)] (opcodeRow3 lo)
  | 0, _ | 8, _ => readsOnly_op_rr8 fun _ _ h => ⟨h, rfl⟩
  | 1, _ | 9, _ => readsOnly_op_rr16 fun _ _ h => ⟨h, rfl⟩
  | 2, _ | 10, _ => readsOnly_op_r8r fun _ _ h => ⟨h, rfl⟩
  | 3, _ | 11, _ => readsOnly_op_r16r fun _ _ h => ⟨h, rfl⟩
  | 4, _ | 12, _ => readsOnly_op_imm8 fun _ => ⟨rfl, rfl⟩
  | 5, _ | 13, _ => readsOnly_op_imm16 fun _ => ⟨rfl, rfl⟩
  | 6, _ | 7, _ | 14, _ | 15, _ => readsOnly_op rfl rfl
  | _ + 16, h => absurd h (by omega)

theorem readsOnly_opcodeRow4 (lo : Nat) (h : lo < 16) :
    ReadsOnly 5 [BitVec.ofNat 8 (0x40 + lo)] (opcodeRow4 lo) := by
  interval_cases lo <;> exact readsOnly_op rfl rfl

theorem readsOnly_opcodeRow5 (lo : Nat) (h : lo < 16) :
    ReadsOnly 5 [BitVec.ofNat 8 (0x50 + lo)] (opcodeRow5 lo) := by
  interval_cases lo <;> exact readsOnly_op rfl rfl

theorem readsOnly_opcodeRow6 : ∀ lo, lo < 16 → ReadsOnly 5 [BitVec.ofNat 8 (0x60 + lo)] (opcodeRow6 lo)
  | 8, _ => readsOnly_op_imm16 fun _ => ⟨rfl, rfl⟩
  | 9, _ => readsOnly_op_rri16 fun _ _ _ h => ⟨h, rfl⟩
  | 10, _ => readsOnly_op_imm8 fun _ => ⟨rfl, rfl⟩
  | 11, _ => readsOnly_op_rri8 fun _ _ _ h => ⟨h, rfl⟩
  | 0, _ | 1, _ | 2, _ | 3, _ | 4, _ | 5, _ | 6, _ | 7, _ | 12, _ | 13, _ | 14, _ | 15, _ => readsOnly_op rfl rfl
  | _ + 16, h => absurd h (by omega)

theorem readsOnly_opcodeRow7 (lo : Nat) (h : lo < 16) :
    ReadsOnly 5 [BitVec.ofNat 8 (0x70 + lo)] (opcodeRow7 lo) := by
  interval_cases lo <;> exact readsOnly_op_imm8 fun _ => ⟨rfl, rfl⟩

theorem readsOnly_opcodeRow8 : ∀ lo, lo < 16 → ReadsOnly 5 [BitVec.ofNat 8 (0x80 + lo)] (opcodeRow8 lo)
  | 0, _ => readsOnly_group80
  | 1, _ => readsOnly_group81
  | 2, _ => readsOnly_op rfl rfl
  | 3, _ => readsOnly_group83
  | 4, _ | 8, _ => readsOnly_op_rr8 fun _ _ h => ⟨h, rfl⟩
  | 5, _ | 9, _ => readsOnly_op_rr16 fun _ _ h => ⟨h, rfl⟩
  | 6, _ | 10, _ => readsOnly_op_r8r fun _ _ h => ⟨h, rfl⟩
  | 7, _ | 11, _ => readsOnly_op_r16r fun _ _ h => ⟨h, rfl⟩
  | 12, _ => readsOnly_op_sr fun _ _ h => ⟨h, rfl⟩
  | 14, _ => readsOnly_op_srr fun _ _ h => ⟨h, rfl⟩
  | 13, _ => readsOnly_op_mem (fun _ _ h => ⟨h, rfl⟩) fun _ _ => ⟨rfl, rfl⟩
  | 15, _ => readsOnly_group8F
  | _ + 16, h => absurd h (by omega)

theorem readsOnly_opcodeRow9 : ∀ lo, lo < 16 → ReadsOnly 5 [BitVec.ofNat 8 (0x90 + lo)] (opcodeRow9 lo)
  | 10, _ => readsOnly_op_ptr fun _ _ => ⟨rfl, rfl⟩
  | 11, _ => readsOnly_op_nrg
  | 0, _ | 1, _ | 2, _ | 3, _ | 4, _ | 5, _ | 6, _ | 7, _ | 8, _ | 9, _ | 12, _ | 13, _ | 14, _ | 15, _ =>
    readsOnly_op rfl rfl
  | _ + 16, h => absurd h (by omega)

theorem readsOnly_opcodeRowA : ∀ lo, lo < 16 → ReadsOnly 5 [BitVec.ofNat 8 (0xA0 + lo)] (opcodeRowA lo)
  | 0, _ | 1, _ | 2, _ | 3, _ | 9, _ => readsOnly_op_imm16 fun _ => ⟨rfl, rfl⟩
  | 8, _ => readsOnly_op_imm8 fun _ => ⟨rfl, rfl⟩
  | 4, _ | 5, _ | 6, _ | 7, _ | 10, _ | 11, _ | 12, _ | 13, _ | 14, _ | 15, _ => readsOnly_op rfl rfl
  | _ + 16, h => absurd h (by omega)

theorem readsOnly_opcodeRowB : ∀ lo, lo < 16 → ReadsOnly 5 [BitVec.ofNat 8 (0xB0 + lo)] (opcodeRowB lo)
  | 0, _ | 1, _ | 2, _ | 3, _ | 4, _ | 5, _ | 6, _ | 7, _ => readsOnly_op_imm8 fun _ => ⟨rfl, rfl⟩
  | 8, _ | 9, _ | 10, _ | 11, _ | 12, _ | 13, _ | 14, _ | 15, _ => readsOnly_op_imm16 fun _ => ⟨rfl, rfl⟩
  | _ + 16, h => absurd h (by omega)

theorem readsOnly_opcodeRowC : ∀ lo, lo < 16 → ReadsOnly 5 [BitVec.ofNat 8 (0xC0 + lo)] (opcodeRowC lo)
  | 0, _ => readsOnly_groupC0
  | 1, _ => readsOnly_groupC1
  | 2, _ | 10, _ => readsOnly_op_imm16 fun _ => ⟨rfl, rfl⟩
  | 4, _ | 5, _ => readsOnly_op_mem (fun _ _ h => ⟨h, rfl⟩) fun _ _ => ⟨rfl, rfl⟩
  | 6, _ => readsOnly_groupC6
  | 7, _ => readsOnly_groupC7
  | 8, _ => readsOnly_op_imm16imm8 fun _ _ => ⟨rfl, rfl⟩
  | 13, _ => readsOnly_op_int
  | 3, _ | 9, _ | 11, _ | 12, _ | 14, _ | 15, _ => readsOnly_op rfl rfl
  | _ + 16, h => absurd h (by omega)

theorem readsOnly_opcodeRowD : ∀ lo, lo < 16 → ReadsOnly 5 [BitVec.ofNat 8 (0xD0 + lo)] (opcodeRowD lo)
  | 0, _ => readsOnly_groupD0
  | 1, _ => readsOnly_groupD1
  | 2, _ => readsOnly_groupD2
  | 3, _ => readsOnly_groupD3
  | 4, _ | 5, _ | 6, _ | 7, _ | 8, _ | 9, _ | 10, _ | 11, _ | 12, _ | 13, _ | 14, _ | 15, _ => readsOnly_op rfl rfl
  | _ + 16, h => absurd h (by omega)

theorem readsOnly_opcodeRowE : ∀ lo, lo < 16 → ReadsOnly 5 [BitVec.ofNat 8 (0xE0 + lo)] (opcodeRowE lo)
  | 0, _ | 1, _ | 2, _ | 3, _ | 11, _ => readsOnly_op_imm8 fun _ => ⟨rfl, rfl⟩
  | 8, _ | 9, _ => readsOnly_op_imm16 fun _ => ⟨rfl, rfl⟩
  | 10, _ => readsOnly_op_ptr fun _ _ => ⟨rfl, rfl⟩
  | 4, _ | 5, _ | 6, _ | 7, _ | 12, _ | 13, _ | 14, _ | 15, _ => readsOnly_op rfl rfl
  | _ + 16, h => absurd h (by omega)

theorem readsOnly_opcodeRowF : ∀ lo, lo < 16 → ReadsOnly 5 [BitVec.ofNat 8 (0xF0 + lo)] (opcodeRowF lo)
  | 2, _ => readsOnly_op_repeat repnzRow_encoded
  | 3, _ => readsOnly_op_repeat repRow_encoded
  | 6, _ => readsOnly_groupF6
  | 7, _ => readsOnly_groupF7
  | 14, _ => readsOnly_groupFE
  | 15, _ => readsOnly_groupFF
  | 0, _ | 1, _ | 4, _ | 5, _ | 8, _ | 9, _ | 10, _ | 11, _ | 12, _ | 13, _ => readsOnly_op rfl rfl
  | _ + 16, h => absurd h (by omega)

/-- The whole opcode map (R124, R133): the row by the high digit of the first byte, the entry by the low one. -/
theorem readsOnly_opcodeRow : ∀ hi lo, hi < 16 → lo < 16 →
    ReadsOnly 5 [BitVec.ofNat 8 (16 * hi + lo)] (opcodeRow hi lo)
  | 0, lo, _, h => readsOnly_opcodeRow0 lo h
  | 1, lo, _, h => readsOnly_opcodeRow1 lo h
  | 2, lo, _, h => readsOnly_opcodeRow2 lo h
  | 3, lo, _, h => readsOnly_opcodeRow3 lo h
  | 4, lo, _, h => readsOnly_opcodeRow4 lo h
  | 5, lo, _, h => readsOnly_opcodeRow5 lo h
  | 6, lo, _, h => readsOnly_opcodeRow6 lo h
  | 7, lo, _, h => readsOnly_opcodeRow7 lo h
  | 8, lo, _, h => readsOnly_opcodeRow8 lo h
  | 9, lo, _, h => readsOnly_opcodeRow9 lo h
  | 10, lo, _, h => readsOnly_opcodeRowA lo h
  | 11, lo, _, h => readsOnly_opcodeRowB lo h
  | 12, lo, _, h => readsOnly_opcodeRowC lo h
  | 13, lo, _, h => readsOnly_opcodeRowD lo h
  | 14, lo, _, h => readsOnly_opcodeRowE lo h
  | 15, lo, _, h => readsOnly_opcodeRowF lo h
  | _ + 16, _, h, _ => absurd h (by omega)

/-! ### The decoder -/

/-- The decoder reads encodings of well-formed instructions only, and six bytes are enough for it (R110, R111). -/
theorem readsOnly_decode : ReadsOnly 6 [] decode := by
  have by_first_byte : decode = fun bs => nextByte bs fun b => opcodeRow (b.toNat / 16) (b.toNat % 16) := by
    funext bs
    cases bs <;> rfl
  rw [by_first_byte]
  refine readsOnly_byte fun b => ?_
  have row := readsOnly_opcodeRow (b.toNat / 16) (b.toNat % 16) (by omega) (by omega)
  rwa [Nat.div_add_mod, BitVec.ofNat_toNat, BitVec.setWidth_eq] at row

/-- What the decoder reads is well-formed. -/
theorem decode_wf (bs : List Byte) (i : Instr) (rest : List Byte) (h : decode bs = .ok (i, rest)) : i.wf = true :=
  (readsOnly_decode.1 bs i rest h).1

end Sys2Proof
end

section
/-! SUPPORT. What a step keeps: the harts but the one whose turn it is, what is permanent of every hart (R34 to R37,
R45), and the invariant of the block (R47, R83, R448); and the statements StepKeepsPermanentState, StepChangesOneHart
and StepKeepsInv. -/

namespace Sys2Proof.Machine

/-! ### The harts -/

/-- `g` is the hart `h` later on: the same table and record (R36, R37), no bomb counter higher (R34). -/
def Hart.Continues (g h : Hart) : Prop :=
  g.perm = h.perm ∧ g.info = h.info ∧ g.bomb0 ≤ h.bomb0 ∧ g.bomb1 ≤ h.bomb1 ∧ g.bomb2 ≤ h.bomb2

theorem continues_refl (h : Hart) : h.Continues h :=
  ⟨rfl, rfl, BitVec.le_refl _, BitVec.le_refl _, BitVec.le_refl _⟩

theorem getElem?_turn_set {s : State} {h : Hart} (running : s.Running h) (g : Hart) :
    (s.harts.set s.turn g)[s.turn]? = some g :=
  List.getElem?_set_self (List.getElem?_eq_some_iff.mp running).1

/-- After an instruction slot and what the scheduler does after it, a continuation of the slot's hart stands in its
place, and nothing else of the harts has changed. -/
theorem slotLeaves_harts {s u : State} {h : Hart} (running : s.Running h) (slot : SlotLeaves s u h) :
    ∃ g, u.afterInstr.harts = s.harts.set s.turn g ∧ g.Continues h := by
  obtain ⟨g, harts, perm, info, bomb0, bomb1, bomb2, -⟩ := slot.hart
  obtain ⟨e, same | ⟨g', running', decayed⟩, -⟩ := afterInstr_rest u
  · exact ⟨g, same.trans harts, perm, info, bomb0, bomb1, bomb2⟩
  · obtain rfl : g = g' := by
      rw [slot.turn, harts, getElem?_turn_set running] at running'
      exact Option.some.inj running'
    exact ⟨{ g with energy := e }, by rw [decayed, slot.turn, harts, List.set_set], perm, info, bomb0, bomb1, bomb2⟩

/-- What a step does to the parameters and the harts, once: nothing, or the living hart whose turn it is goes on. -/
theorem step_harts {s t : State} (next : step s = .next t) :
    t.params = s.params ∧ (t.harts = s.harts ∨
      ∃ h g, s.Running h ∧ h.alive = true ∧ t.harts = s.harts.set s.turn g ∧ g.Continues h) := by
  obtain ⟨-, kind⟩ := step_next_cases decode_wf next
  cases kind with
  | boundary _ e =>
    obtain ⟨harts, -, -, -, -, params⟩ := atBoundary_rest s
    exact e ▸ ⟨params, .inl harts⟩
  | dead _ _ _ _ e =>
    obtain ⟨harts, -, -, -, -, -, params⟩ := turnFrom_rest s (s.turn + 1)
    exact e ▸ ⟨params, .inl harts⟩
  | slot h u running alive _ slot e =>
    obtain ⟨g, harts, continues⟩ := slotLeaves_harts running slot
    obtain ⟨_, -, -, -, -, -, -, params⟩ := afterInstr_rest u
    exact e ▸ ⟨params.trans slot.params, .inr ⟨h, g, running, alive, harts, continues⟩⟩

/-- Settles O17: the harts after a step are those before it but for the place of the hart whose turn it is. -/
theorem stepChangesOneHart : Obligations.StepChangesOneHart := by
  intro s t next w other
  obtain ⟨-, same | ⟨h, g, -, -, harts, -⟩⟩ := step_harts next
  · rw [same]
  · rw [harts, List.getElem?_set_ne other.symm]

/-- Every hart goes on after a step, a dead one as it was (R35, log 17). -/
theorem step_continues {s t : State} {w : Nat} {g : Hart} (next : step s = .next t) (before : s.harts[w]? = some g) :
    ∃ g', t.harts[w]? = some g' ∧ g'.Continues g ∧ (g.alive = false → g' = g) := by
  by_cases turn : w = s.turn
  · subst turn
    obtain ⟨-, same | ⟨h, h', running, alive, harts, continues⟩⟩ := step_harts next
    · exact ⟨g, same ▸ before, continues_refl g, fun _ => rfl⟩
    · obtain rfl : h = g := Option.some.inj (running.symm.trans before)
      exact ⟨h', harts ▸ getElem?_turn_set running h', continues, fun dead => by simp [alive] at dead⟩
  · exact ⟨g, (stepChangesOneHart s t next w turn).trans before, continues_refl g, fun _ => rfl⟩

theorem step_harts_length {s t : State} (next : step s = .next t) : t.harts.length = s.harts.length := by
  obtain ⟨-, same | ⟨h, g, -, -, harts, -⟩⟩ := step_harts next
  · rw [same]
  · rw [harts, List.length_set]

/-- Settles O16: the parameters and the number of harts stay, and every hart goes on. -/
theorem stepKeepsPermanentState : Obligations.StepKeepsPermanentState := by
  intro s t next
  refine ⟨(step_harts next).1, step_harts_length next, fun w g before => ?_⟩
  obtain ⟨g', after, ⟨perm, info, bombs⟩, dead_stays⟩ := step_continues next before
  exact ⟨g', after, perm, info, dead_stays, bombs⟩

/-! ### The invariant -/

/-- What holds inside a round, whoever's turn comes next: `State.Inv` but for the phase and the hart whose turn it
is. -/
structure State.InRound (s : State) : Prop where
  legal : s.params.legal = true
  mem : s.mem.wf s.params = true
  living : s.aliveCount = s.living
  counts : s.aliveCount + s.deathCount = s.harts.length
  turn : s.turn < s.harts.length
  tables : ∀ h ∈ s.harts, tableWf s.params h.perm = true
  round : s.round < s.params.maxRound
  going : s.endReason = none

theorem inRound_of_inv {s : State} (inv : s.Inv) (inside : s.phase ≠ .boundary) : s.InRound := by
  obtain ⟨legal, mem, living, counts, turn, tables, -, inRound⟩ := inv
  obtain ⟨going, round, -⟩ := inRound inside
  exact ⟨legal, mem, living, counts, turn, tables, round, going⟩

theorem inRound_turnFrom {s : State} (I : s.InRound) (w : Nat) : (s.turnFrom w).Inv :=
  turnFrom_inv s w I.legal I.mem I.living I.counts I.turn I.tables I.round I.going

theorem inRound_inv {s : State} {h : Hart} (I : s.InRound) (running : s.Running h) (alive : h.alive = true) :
    s.Inv :=
  ⟨I.legal, I.mem, I.living, I.counts, I.turn, I.tables, I.round.le, fun _ => ⟨I.going, I.round, h, running, alive⟩⟩

/-- An instruction slot of a living hart: if it dies the two counts of R40 move by one each, and so does the number of
the living. -/
theorem inRound_slot {s u : State} {h : Hart} (I : s.InRound) (running : s.Running h) (alive : h.alive = true)
    (slot : SlotLeaves s u h) : u.InRound := by
  obtain ⟨g, harts, perm, -, -, -, -, count⟩ := slot.hart
  have living_after : u.living + 1 = s.living + if g.alive then 1 else 0 := by
    unfold State.living
    rw [harts]
    exact countP_alive_set running alive
  have living := I.living
  have counts := I.counts
  refine ⟨slot.params ▸ I.legal, slot.params ▸ slot.wf I.legal I.mem, ?living, ?counts, ?turn, ?tables,
    by rw [slot.round, slot.params]; exact I.round, slot.endr.trans I.going⟩
  case living =>
    obtain ⟨survives, alives, -⟩ | ⟨dies, alives, -⟩ := count
    · rw [survives, alive, if_pos rfl] at living_after
      omega
    · rw [dies, if_neg Bool.false_ne_true] at living_after
      omega
  case counts =>
    rw [harts, List.length_set]
    obtain ⟨-, alives, deaths⟩ | ⟨dies, alives, deaths⟩ := count
    · omega
    · rw [dies, if_neg Bool.false_ne_true] at living_after
      omega
  case turn =>
    rw [slot.turn, harts, List.length_set]
    exact I.turn
  case tables =>
    intro x hx
    rw [harts] at hx
    rw [slot.params]
    obtain old | rfl := List.mem_or_eq_of_mem_set hx
    · exact I.tables x old
    · rw [perm]
      exact I.tables h (List.mem_of_getElem? running)

/-- Energy and the count of draws are no part of the invariant: setting them is a slot that does nothing more. -/
theorem slotLeaves_energy (s : State) (h : Hart) (e : Word) (draws : Nat) :
    SlotLeaves s { s with harts := s.harts.set s.turn { h with energy := e }, drawCount := draws } h where
  hart := ⟨{ h with energy := e }, rfl, rfl, rfl, BitVec.le_refl _, BitVec.le_refl _, BitVec.le_refl _,
    .inl ⟨rfl, rfl, rfl⟩⟩
  params := rfl
  wf := fun _ => id
  round := rfl
  turn := rfl
  phase := rfl
  endr := rfl
  ev := ⟨[], rfl, fun _ changed => absurd rfl changed, fun _ new => absurd new List.not_mem_nil⟩

/-- Decay, draw and trial (R445 to R447): an extra instruction is a living hart's. -/
theorem inRound_afterMandatory {s : State} {h : Hart} (I : s.InRound) (running : s.Running h)
    (alive : h.alive = true) : (s.afterMandatory h).Inv := by
  have decayed_inRound (e : Word) := inRound_slot I running alive (slotLeaves_energy s h e (s.drawCount + 1))
  unfold State.afterMandatory
  dsimp only
  split
  · obtain ⟨legal, mem, living, counts, turn, tables, round, going⟩ :=
      decayed_inRound (decayed s.params s.round h.energy)
    exact inRound_inv ⟨legal, mem, living, counts, turn, tables, round, going⟩ (getElem?_turn_set running _) alive
  · exact inRound_turnFrom (decayed_inRound _) _

theorem inRound_afterInstr {s : State} (I : s.InRound) : s.afterInstr.Inv := by
  unfold State.afterInstr
  split
  · next none => exact absurd I.turn (Nat.not_lt.mpr (List.getElem?_eq_none_iff.mp none))
  · next h running =>
    split
    · exact inRound_turnFrom I _
    · next lives =>
      split
      · exact inRound_afterMandatory I running (by simpa using lives)
      · exact inRound_turnFrom I _

/-- The round boundary (R448, R449): the war ends and the block stays at the boundary, or a round below the cap
begins. -/
theorem inv_atBoundary {s : State} (inv : s.Inv) (boundary : s.phase = .boundary) (going : s.endReason = none) :
    s.atBoundary.Inv := by
  obtain ⟨legal, mem, living, counts, turn, tables, round, -⟩ := inv
  have finished (r : EndReason) : (s.finish r).Inv :=
    ⟨legal, mem, living, counts, turn, tables, round, fun inside => absurd boundary inside⟩
  unfold State.atBoundary
  split
  · exact finished _
  · split
    · exact finished _
    · next below_cap =>
      split
      · exact finished _
      · have begun : State.InRound { s with events := .round s.round :: s.events } :=
          ⟨legal, mem, living, counts, turn, tables, lt_of_le_of_ne round below_cap, going⟩
        exact inRound_turnFrom begun 0

/-- Settles O12, by the three kinds of step: a round boundary, the turn of a dead hart, an instruction slot. -/
theorem stepKeepsInv : Obligations.StepKeepsInv := by
  intro s t inv next
  obtain ⟨going, kind⟩ := step_next_cases decode_wf next
  cases kind with
  | boundary boundary e => exact e ▸ inv_atBoundary inv boundary going
  | dead _ _ _ inside e => exact e ▸ inRound_turnFrom (inRound_of_inv inv inside) _
  | slot h u running alive inside slot e =>
    exact e ▸ inRound_afterInstr (inRound_slot (inRound_of_inv inv inside) running alive slot)

end Sys2Proof.Machine
end

section
/-! SUPPORT. A memory in canonical form (log 13) is its bytes: its list is determined by what it reads; and the
statement MemoryIsItsBytes. -/

namespace Sys2Proof.Machine

open Sys2Proof.Config (Params)

/-- `Memory.wf`, clause by clause. -/
theorem memory_wf_iff {p : Params} {m : Memory} :
    m.wf p = true ↔ risingCells m.cells = true ∧ ∀ c ∈ m.cells, c.1 < p.memorySize ∧ c.2 ≠ fillAt p c.1 := by
  simp only [Memory.wf, Bool.and_eq_true, List.all_eq_true, decide_eq_true_eq, bne_iff_ne]

/-- The canonical order as a relation of the entries' addresses. -/
theorem risingCells_iff_pairwise {cells : List Host.Cell} :
    risingCells cells = true ↔ cells.Pairwise (InvImage (· < ·) Prod.fst) := by
  induction cells with
  | nil => simp [risingCells]
  | cons c rest ih => rw [risingCells_cons, List.pairwise_cons, ih]; rfl

/-- In the canonical order an address has one entry at most, so that looking it up finds it. -/
theorem lookupCell_eq_some_iff {cells : List Host.Cell} (rising : risingCells cells = true) (L : Nat) (v : Byte) :
    lookupCell cells L = some v ↔ (L, v) ∈ cells := by
  induction cells with
  | nil => simp [lookupCell]
  | cons c rest ih =>
    obtain ⟨above, rest_rising⟩ := risingCells_cons.mp rising
    rw [lookupCell, List.mem_cons]
    split
    · next here =>
      have not_later : (L, v) ∉ rest := fun later => (above _ later).ne here
      rw [Option.some.injEq, or_iff_left not_later, Prod.ext_iff, eq_comm (a := L), eq_comm (a := v)]
      exact (and_iff_right here).symm
    · next elsewhere =>
      have not_here : (L, v) ≠ c := fun e => elsewhere (e ▸ rfl)
      rw [ih rest_rising, or_iff_right not_here]

/-- The entries of a canonical memory are its bytes that differ from the fill (R481, R482). -/
theorem mem_cells_iff {p : Params} {m : Memory} (wf : m.wf p = true) (L : Nat) (v : Byte) :
    (L, v) ∈ m.cells ↔ L < p.memorySize ∧ m.read p L = v ∧ v ≠ fillAt p L := by
  obtain ⟨rising, inside⟩ := memory_wf_iff.mp wf
  rw [← lookupCell_eq_some_iff rising]
  unfold Memory.read
  constructor
  · intro listed
    obtain ⟨bound, differs⟩ := inside _ ((lookupCell_eq_some_iff rising L v).mp listed)
    exact ⟨bound, by rw [listed, Option.getD_some], differs⟩
  · rintro ⟨-, read, differs⟩
    cases listed : lookupCell m.cells L with
    | none => rw [listed, Option.getD_none] at read; exact absurd read.symm differs
    | some w => rw [listed, Option.getD_some] at read; rw [read]

theorem memory_ext {p : Params} {m n : Memory} (m_wf : m.wf p = true) (n_wf : n.wf p = true)
    (same : ∀ L, L < p.memorySize → m.read p L = n.read p L) : m = n := by
  have entries (c : Host.Cell) : c ∈ m.cells ↔ c ∈ n.cells := by
    rw [mem_cells_iff m_wf c.1 c.2, mem_cells_iff n_wf c.1 c.2]
    exact and_congr_right fun bound => by rw [same _ bound]
  have m_rising := risingCells_iff_pairwise.mp (memory_wf_iff.mp m_wf).1
  have n_rising := risingCells_iff_pairwise.mp (memory_wf_iff.mp n_wf).1
  cases m
  cases n
  exact congrArg Memory.mk (m_rising.eq_of_mem_iff n_rising entries)

/-- Settles O10: canonical memories are compared byte by byte, and `read_write` gives the bytes after a write. -/
theorem memoryIsItsBytes : Obligations.MemoryIsItsBytes := by
  intro p
  refine ⟨fun m n => memory_ext, fun m L wf bound => ?_, fun m L K v w wf L_bound K_bound apart => ?_⟩
  · refine memory_ext (write_wf _ wf bound) wf fun J _ => ?_
    rw [read_write]
    split
    · next here => rw [here]
    · rfl
  · refine memory_ext (write_wf _ (write_wf _ wf L_bound) K_bound)
      (write_wf _ (write_wf _ wf K_bound) L_bound) fun J _ => ?_
    rw [read_write, read_write, read_write, read_write]
    split
    · next at_K => rw [if_neg (at_K ▸ apart.symm)]
    · rfl

end Sys2Proof.Machine
end

section
/-! SUPPORT. What an instruction leaves alone in the hart it runs on, once for every function of a hart that none of the
instruction's writes changes; and the statements SegmentAndIpFrame, FlagFrame and OtherStateFrame. -/

namespace Sys2Proof.Machine

/-! ### A function of a hart that an instruction keeps -/

/-- No write to registers, flags, Energy or a bomb counter that `i` may make changes `f` of a hart, nor does the hart's
death. The general registers, of which `f` says nothing, need no proof; of the others those that `i` may write do. -/
structure KeptBy (i : Instr) {β : Type} (f : Hart → β) : Prop where
  byte : ∀ q (h : Hart) v, f (h.set8 q v) = f h := by intro q _ _; cases q <;> rfl
  word : ∀ q (h : Hart) v, f (h.set16 q v) = f h := by intro q _ _; cases q <;> rfl
  seg : ∀ q, q ∈ i.sregs → ∀ (h : Hart) v, f (h.setSreg q v) = f h := by intro q _ _ _; cases q <;> rfl
  ip : i.transfers = true → ∀ (h : Hart) v, f { h with IP := v } = f h := by intros; rfl
  flags : ∀ (h : Hart) g, g.Outside i.flagMask h.flags → f { h with flags := g } = f h := by intros; rfl
  energy : i = .nrg → ∀ (h : Hart) v, f { h with energy := v } = f h := by intros; rfl
  bomb0 : i = .int86 → ∀ (h : Hart) v, f { h with bomb0 := v } = f h := by intros; rfl
  bomb1 : i = .int87 → ∀ (h : Hart) v, f { h with bomb1 := v } = f h := by intros; rfl
  bomb2 : i = .int88 → ∀ (h : Hart) v, f { h with bomb2 := v } = f h := by intros; rfl
  alive : ∀ h : Hart, f { h with alive := false } = f h := by intros; rfl

variable {i : Instr} {s t : State} {h g : Hart}

theorem keptBy_allows {β : Type} {f : Hart → β} (K : KeptBy i f) :
    Allows (fun c d => f d.hart = f c.hart) i where
  refl _ := rfl
  trans first second := second.trans first
  undef _ := rfl
  byte q _ c v := K.byte q c.hart v
  word q _ c v := K.word q c.hart v
  seg q hq c v := K.seg q hq c.hart v
  ip hi c v := K.ip hi c.hart v
  flags c g hg := K.flags c.hart g hg
  energy hi c v := K.energy hi c.hart v
  bomb0 hi c _ := K.bomb0 hi c.hart _
  bomb1 hi c _ := K.bomb1 hi c.hart _
  bomb2 hi c _ := K.bomb2 hi c.hart _
  store _ _ _ _ := rfl

/-- What an instruction keeps is after it as before it, whether it completes or raises a fault. -/
theorem exec_keeps {β : Type} {f : Hart → β} (K : KeptBy i f) (wf : i.wf = true) (running : s.Running h)
    (next : exec i s = .next t) (after : t.Running g) : f g = f h :=
  exec_next_hart (keptBy_allows K) wf K.alive running next after

/-! ### Segment registers, IP, FLAGS -/

/-- Settles O21: a segment register is written only where the instruction names it, IP only by a transfer. -/
theorem segmentAndIpFrame : Obligations.SegmentAndIpFrame := by
  intro i s t h g wf running next after
  constructor
  · intro r unnamed
    have K : KeptBy i fun h => h.getSreg r :=
      { byte := by intro q _ _; cases q <;> cases r <;> rfl
        word := by intro q _ _; cases q <;> cases r <;> rfl
        seg := fun q named h v => getSreg_setSreg_ne h (ne_of_mem_of_not_mem named unnamed) v }
    exact exec_keeps K wf running next after
  · intro stays
    have K : KeptBy i Hart.IP := { ip := fun transfers => by simp [stays] at transfers }
    exact exec_keeps K wf running next after

/-- Settles O22: every write to FLAGS is one outside which FLAGS stay. -/
theorem flagFrame : Obligations.FlagFrame := by
  intro i s t h g wf running next after
  have K : KeptBy i fun h => h.flags.toWord &&& ~~~i.flagMask := { flags := fun _ _ outside => outside }
  exact exec_keeps K wf running next after

/-! ### The block -/

/-- What an instruction leaves, once: what its operations left of the cpu, with the hart killed if one of them raised a
fault. -/
theorem exec_leaves (wf : i.wf = true) (running : s.Running h) (next : exec i s = .next t) :
    ∃ c, SlotKeeps (s.cpu h) c ∧ (t = s.commit c ∨ ∃ f, t = (s.commit c).kill f) := by
  obtain ⟨m, performed, stays⟩ := exec_stays (allows_slotKeeps i) wf
  rw [performed] at next
  obtain ⟨h', running', outcome⟩ := perform_next next
  obtain rfl : h' = h := Option.some.inj (running'.symm.trans running)
  have kept := stays (s.cpu h')
  obtain ⟨c, completed, rfl⟩ | ⟨f, c, faulted, rfl⟩ := outcome
  · rw [completed] at kept
    exact ⟨c, kept, .inl rfl⟩
  · rw [faulted] at kept
    exact ⟨c, kept, .inr ⟨f, rfl⟩⟩

/-- The hart after an instruction that completed. -/
theorem running_commit {c : Cpu} (running : s.Running h) (after : (s.commit c).Running g) : g = c.hart := by
  have there : (s.commit c).harts[s.turn]? = some g := after
  rw [State.commit_harts, getElem?_turn_set running] at there
  exact (Option.some.inj there).symm

/-- The hart after an instruction that raised a fault. -/
theorem running_kill {c : Cpu} {f : HartFault} (running : s.Running h) (after : ((s.commit c).kill f).Running g) :
    g = { c.hart with alive := false } := by
  have there : ((s.commit c).kill f).harts[s.turn]? = some g := after
  rw [State.kill_harts, State.commit_turn, List.getElem?_modify_eq, State.commit_harts,
    getElem?_turn_set running] at there
  exact (Option.some.inj there).symm

/-- Settles O24: Energy and the bomb counters each by the one instruction that writes it, the rest by the two ways an
instruction can end. -/
theorem otherStateFrame : Obligations.OtherStateFrame := by
  intro i s t h g wf running next after
  have kept {β : Type} {f : Hart → β} (K : KeptBy i f) : f g = f h := exec_keeps K wf running next after
  refine ⟨fun other => kept (f := Hart.energy) { energy := fun e => absurd e other },
    fun other => kept (f := Hart.bomb0) { bomb0 := fun e => absurd e other },
    fun other => kept (f := Hart.bomb1) { bomb1 := fun e => absurd e other },
    fun other => kept (f := Hart.bomb2) { bomb2 := fun e => absurd e other },
    kept (f := Hart.perm) {}, kept (f := Hart.info) {}, ?_⟩
  obtain ⟨c, slot, rfl | ⟨f, rfl⟩⟩ := exec_leaves wf running next
  · refine ⟨fun w other => List.getElem?_set_ne other.symm, rfl, rfl, rfl, rfl, rfl, rfl, rfl, .inl ⟨?_, rfl, rfl⟩⟩
    rw [running_commit running after]
    exact slot.alive
  · refine ⟨fun w other => ?_, rfl, rfl, rfl, rfl, rfl, rfl, rfl, .inr ⟨?_, rfl, rfl⟩⟩
    · rw [State.kill_harts, State.commit_turn, List.getElem?_modify_ne _ _ other.symm, State.commit_harts,
        List.getElem?_set_ne other.symm]
    · rw [running_kill running after]

end Sys2Proof.Machine
end

section
/-! SUPPORT. The write events of a step (R76, R81): every byte that reads differently has one, and each names a byte the
hart whose turn it is may write; and the statements WritesAreEvents and UnwritableBytesStay. -/

namespace Sys2Proof.Machine

/-- Every byte that `m'` reads differently from `m` has a write event in `new`, whose write events are of bytes that the
table `T` lets a hart write. -/
def WritesRecorded (p : Config.Params) (T : List Region) (m m' : Memory) (new : List Event) : Prop :=
  (∀ L, m'.read p L ≠ m.read p L → Event.write L ∈ new) ∧ ∀ L, Event.write L ∈ new → allowed p T L .write = true

/-- Events that are no writes record that memory stays. -/
theorem writesRecorded_same {p : Config.Params} {T : List Region} {m : Memory} {new : List Event}
    (silent : ∀ L, Event.write L ∉ new) : WritesRecorded p T m m new :=
  ⟨fun _ changed => absurd rfl changed, fun L written => absurd written (silent L)⟩

/-- Settles O19, by the three kinds of step: a round boundary and a dead hart's turn write nothing; an instruction slot
records its writes, and the scheduler after it writes nothing. -/
theorem writesAreEvents : Obligations.WritesAreEvents := by
  intro s t h running next
  show ∃ new, t.events = new ++ s.events ∧ WritesRecorded s.params h.perm s.mem t.mem new
  obtain ⟨-, kind⟩ := step_next_cases decode_wf next
  cases kind with
  | boundary _ e =>
    obtain ⟨-, mem, -, -, ⟨event, events, no_write⟩, -⟩ := atBoundary_rest s
    subst e
    rw [mem]
    exact ⟨[event], events, writesRecorded_same fun L written => no_write L (List.mem_singleton.mp written).symm⟩
  | dead _ _ _ _ e =>
    obtain ⟨-, mem, events, -⟩ := turnFrom_rest s (s.turn + 1)
    subst e
    exact ⟨[], events, mem ▸ writesRecorded_same fun _ => List.not_mem_nil⟩
  | slot g u running' _ _ slot e =>
    obtain rfl : g = h := Option.some.inj (running'.symm.trans running)
    obtain ⟨-, -, mem, events, -⟩ := afterInstr_rest u
    subst e
    rw [mem, events]
    exact slot.ev

/-- Settles O18: a byte that read differently would have a write event, and so be one the hart may write. -/
theorem unwritableBytesStay : Obligations.UnwritableBytesStay := by
  intro s t h running next L denied
  obtain ⟨new, -, recorded, permitted⟩ := writesAreEvents s t h running next
  by_contra changed
  have allowed_L := permitted L (recorded L changed)
  rw [denied] at allowed_L
  contradiction

end Sys2Proof.Machine
end

section
/-! SUPPORT. The decoder gives back what the encoder wrote, whatever bytes follow (R110, R111): each instruction by the
lemma of its operand form. -/

namespace Sys2Proof

/-! ### Operand forms -/

/-- A byte register and an `Eb` operand, the register first in the instruction. -/
theorem opReg8Rm_bytes {k : Reg8 → Rm8 → Instr} (rm : Rm8) (r : Reg8) (rest : List Byte) (wf : rm.wf = true) :
    opRmReg8 (fun rm r => k r rm) (rm.bytes r.index ++ rest) = .ok (k r rm, rest) :=
  opRmReg8_bytes _ rm r rest wf

/-- A word register and an `Ew` operand, the register first in the instruction. -/
theorem opReg16Rm_bytes {k : Reg16 → Rm16 → Instr} (rm : Rm16) (r : Reg16) (rest : List Byte) (wf : rm.wf = true) :
    opRmReg16 (fun rm r => k r rm) (rm.bytes r.index ++ rest) = .ok (k r rm, rest) :=
  opRmReg16_bytes _ rm r rest wf

/-- A segment register and an `Ew` operand, the register first in the instruction. -/
theorem opSregRm_bytes {k : BitVec 3 → Rm16 → Instr} (rm : Rm16) (sr : BitVec 3) (rest : List Byte)
    (wf : rm.wf = true) : opRmSreg (fun rm sr => k sr rm) (rm.bytes sr ++ rest) = .ok (k sr rm, rest) :=
  opRmSreg_bytes _ rm sr rest wf

/-! ### Forms of one row -/

/-- 90 is NOP, so that XCHG with AX itself has no encoding (R137, log 19). -/
theorem decode_xchgAxReg16 (r : Reg16) (wf : (Instr.xchgAxReg16 r).wf = true) (rest : List Byte) :
    decode (encode (.xchgAxReg16 r) ++ rest) = .ok (.xchgAxReg16 r, rest) := by
  cases r
  case AX => contradiction
  all_goals rfl

theorem decode_esc (n : BitVec 3) (rest : List Byte) : decode (encode (.esc n) ++ rest) = .ok (.esc n, rest) := by
  obtain rfl | rfl | rfl | rfl | rfl | rfl | rfl | rfl :=
    (by decide : ∀ n : BitVec 3, n = 0 ∨ n = 1 ∨ n = 2 ∨ n = 3 ∨ n = 4 ∨ n = 5 ∨ n = 6 ∨ n = 7) n <;> rfl

/-- The first byte that is not 9B ends the row of NRG (R135). -/
theorem decode_nrgBroken (good : Fin 3) {b : Byte} (wf : (Instr.nrgBroken good b).wf = true) (rest : List Byte) :
    decode (encode (.nrgBroken good b) ++ rest) = .ok (.nrgBroken good b, rest) := by
  have other : b ≠ 155#8 := by simpa [Instr.wf] using wf
  match good with
  | 0 | 1 | 2 => simp [encode, decode, opcodeRow, opcodeRow9, opNrg, nextByte, op, other, List.replicate]

theorem repnzRow_broken {b : Byte} : (Instr.repnzBroken b).wf = true → repnzRow b = .repnzBroken b := by
  revert b
  decide +kernel

theorem repRow_broken {b : Byte} : (Instr.repBroken b).wf = true → repRow b = .repBroken b := by
  revert b
  decide +kernel

/-- A vector without a row of its own (R136). -/
theorem opInt_bytes {n : Byte} (wf : (Instr.intImm8 n).wf = true) (rest : List Byte) :
    opInt (n :: rest) = .ok (.intImm8 n, rest) := by
  have other : n.toNat ≠ 0x86 ∧ n.toNat ≠ 0x87 ∧ n.toNat ≠ 0x88 := by
    simpa [Instr.wf, isVirtualVector] using wf
  obtain ⟨not86, not87, not88⟩ := other
  simp only [opInt, nextByte]
  rfl

/-! ### Every instruction -/

/-- Decoding the encoding of a well-formed instruction gives it back, with the bytes after it. -/
theorem decode_encode {i : Instr} (wf : i.wf = true) (rest : List Byte) :
    decode (encode i ++ rest) = .ok (i, rest) := by
  cases i
  case addEbGb | orEbGb | adcEbGb | sbbEbGb | andEbGb | subEbGb | xorEbGb | cmpEbGb | testEbGb | movEbGb =>
    exact opRmReg8_bytes _ _ _ _ wf
  case addGbEb | orGbEb | adcGbEb | sbbGbEb | andGbEb | subGbEb | xorGbEb | cmpGbEb | xchgGbEb | movGbEb =>
    exact opReg8Rm_bytes _ _ _ wf
  case addEwGw | orEwGw | adcEwGw | sbbEwGw | andEwGw | subEwGw | xorEwGw | cmpEwGw | testEwGw | movEwGw =>
    exact opRmReg16_bytes _ _ _ _ wf
  case addGwEw | orGwEw | adcGwEw | sbbGwEw | andGwEw | subGwEw | xorGwEw | cmpGwEw | xchgGwEw | movGwEw =>
    exact opReg16Rm_bytes _ _ _ wf
  case movEwSw =>
    exact opRmSreg_bytes _ _ _ _ wf
  case movSwEw =>
    exact opSregRm_bytes _ _ _ wf
  case imulGwEwImm16 =>
    exact opRegRmImm16_bytes _ _ _ _ _ wf
  case imulGwEwSimm8 =>
    exact opRegRmImm8_bytes _ _ _ _ _ wf
  case leaGwM | lesGwM | ldsGwM =>
    exact opMem_bytes _ _ _ _ _ wf
  case leaRegister | lesRegister | ldsRegister =>
    exact opMem_bad _ _ _ _ _
  case rolEb1 | rorEb1 | rclEb1 | rcrEb1 | shlEb1 | shrEb1 | sarEb1 | rolEbCl | rorEbCl | rclEbCl | rcrEbCl |
    shlEbCl | shrEbCl | sarEbCl | notEb | negEb | mulEb | imulEb | divEb | idivEb | incEb | decEb =>
    exact opGroup_rm8 _ _ _ _ _ wf rfl
  case popEw | rolEw1 | rorEw1 | rclEw1 | rcrEw1 | shlEw1 | shrEw1 | sarEw1 | rolEwCl | rorEwCl | rclEwCl | rcrEwCl |
    shlEwCl | shrEwCl | sarEwCl | notEw | negEw | mulEw | imulEw | divEw | idivEw | incEw | decEw | callEw | jmpEw |
    pushEw =>
    exact opGroup_rm16 _ _ _ _ _ wf rfl
  case addEbImm8 | orEbImm8 | adcEbImm8 | sbbEbImm8 | andEbImm8 | subEbImm8 | xorEbImm8 | cmpEbImm8 | rolEbImm8 |
    rorEbImm8 | rclEbImm8 | rcrEbImm8 | shlEbImm8 | shrEbImm8 | sarEbImm8 | movEbImm8 | testEbImm8 =>
    exact opGroup_rm8i _ _ _ _ _ _ wf rfl
  case addEwSimm8 | orEwSimm8 | adcEwSimm8 | sbbEwSimm8 | andEwSimm8 | subEwSimm8 | xorEwSimm8 | cmpEwSimm8 |
    rolEwImm8 | rorEwImm8 | rclEwImm8 | rcrEwImm8 | shlEwImm8 | shrEwImm8 | sarEwImm8 =>
    exact opGroup_rm16i _ _ _ _ _ _ wf rfl
  case addEwImm16 | orEwImm16 | adcEwImm16 | sbbEwImm16 | andEwImm16 | subEwImm16 | xorEwImm16 | cmpEwImm16 |
    movEwImm16 | testEwImm16 =>
    exact opGroup_rm16w _ _ _ _ _ _ wf rfl
  case callFarM | jmpFarM =>
    exact opGroup_mem _ _ _ _ _ _ wf rfl
  case callFarRegister | jmpFarRegister =>
    exact opGroup_bad groupFF _ _ _ _ _ rfl
  case invalid8Fs1 | invalid8Fs2 | invalid8Fs3 | invalid8Fs4 | invalid8Fs5 | invalid8Fs6 | invalid8Fs7 =>
    exact opGroup_inv group8F _ _ _ _ _ rfl
  case invalidC0s6 =>
    exact opGroup_inv groupC0 _ _ _ _ _ rfl
  case invalidC1s6 =>
    exact opGroup_inv groupC1 _ _ _ _ _ rfl
  case invalidD0s6 =>
    exact opGroup_inv groupD0 _ _ _ _ _ rfl
  case invalidD1s6 =>
    exact opGroup_inv groupD1 _ _ _ _ _ rfl
  case invalidD2s6 =>
    exact opGroup_inv groupD2 _ _ _ _ _ rfl
  case invalidD3s6 =>
    exact opGroup_inv groupD3 _ _ _ _ _ rfl
  case invalidC6s1 | invalidC6s2 | invalidC6s3 | invalidC6s4 | invalidC6s5 | invalidC6s6 | invalidC6s7 =>
    exact opGroup_inv groupC6 _ _ _ _ _ rfl
  case invalidC7s1 | invalidC7s2 | invalidC7s3 | invalidC7s4 | invalidC7s5 | invalidC7s6 | invalidC7s7 =>
    exact opGroup_inv groupC7 _ _ _ _ _ rfl
  case invalidF6s1 =>
    exact opGroup_inv groupF6 _ _ _ _ _ rfl
  case invalidF7s1 =>
    exact opGroup_inv groupF7 _ _ _ _ _ rfl
  case invalidFEs2 | invalidFEs3 | invalidFEs4 | invalidFEs5 | invalidFEs6 | invalidFEs7 =>
    exact opGroup_inv groupFE _ _ _ _ _ rfl
  case invalidFFs7 =>
    exact opGroup_inv groupFF _ _ _ _ _ rfl
  case addAxImm16 | orAxImm16 | adcAxImm16 | sbbAxImm16 | andAxImm16 | subAxImm16 | xorAxImm16 | cmpAxImm16 |
    pushImm16 | movAlMoffs16 | movAxMoffs16 | movMoffs16Al | movMoffs16Ax | testAxImm16 | retImm16 | retfImm16 |
    callRel16 | jmpRel16 =>
    exact opImm16_bytes _ _ _
  case callPtr1616 | jmpPtr1616 =>
    exact opPtr_bytes _ _ _ _
  case enterImm16Imm8 =>
    exact opImm16Imm8_bytes _ _ _ _
  case incReg16 r | decReg16 r | pushReg16 r | popReg16 r | movReg8Imm8 r _ =>
    cases r <;> rfl
  case movReg16Imm16 r _ =>
    cases r <;> exact opImm16_bytes _ _ _
  case xchgAxReg16 r =>
    exact decode_xchgAxReg16 r wf rest
  case esc n =>
    exact decode_esc n rest
  case nrgBroken good b =>
    exact decode_nrgBroken good wf rest
  case repnzBroken b =>
    exact congrArg (fun i => Except.ok (i, rest)) (repnzRow_broken wf)
  case repBroken b =>
    exact congrArg (fun i => Except.ok (i, rest)) (repRow_broken wf)
  case intImm8 n =>
    exact opInt_bytes wf rest
  case addAlImm8 | orAlImm8 | adcAlImm8 | sbbAlImm8 | andAlImm8 | subAlImm8 | xorAlImm8 | cmpAlImm8 | pushSimm8 |
    joRel8 | jnoRel8 | jbRel8 | jnbRel8 | jzRel8 | jnzRel8 | jbeRel8 | jaRel8 | jsRel8 | jnsRel8 | jpRel8 | jnpRel8 |
    jlRel8 | jgeRel8 | jleRel8 | jgRel8 | testAlImm8 | loopnzRel8 | loopzRel8 | loopRel8 | jcxzRel8 | jmpRel8 |
    pushEs | pushCs | pushSs | pushDs | popEs | popSs | popDs | invalid0F | esOverride | csOverride | ssOverride |
    dsOverride | daa | das | aaa | aas | aam | aad | pusha | popa | bound | invalid63 | invalid64 | invalid65 |
    invalid66 | invalid67 | insb | insw | outsb | outsw | invalid82 | nop | cbw | cwd | nrg | pushf | popf | sahf |
    lahf | movsb | movsw | cmpsb | cmpsw | stosb | stosw | lodsb | lodsw | scasb | scasw | ret | leave | retf |
    int3 | int86 | int87 | int88 | into | iret | invalidD6 | xlat | inAlImm8 | inAxImm8 | outImm8Al | outImm8Ax |
    inAlDx | inAxDx | outDxAl | outDxAx | lock | invalidF1 | repnzMovsb | repnzMovsw | repnzCmpsb | repnzCmpsw |
    repnzStosb | repnzStosw | repnzLodsb | repnzLodsw | repnzScasb | repnzScasw | repMovsb | repMovsw | repzCmpsb |
    repzCmpsw | repStosb | repStosw | repLodsb | repLodsw | repzScasb | repzScasw | hlt | cmc | clc | stc | cli |
    sti | cld | std =>
    rfl

end Sys2Proof
end

section
/-! SUPPORT. What a fetch reads (R79, R80, R111): the instruction whose encoding stands executable at CS:IP, or up to the
first byte that may not be executed; and the statements StepRunsEncoded and FetchDeniedKills. -/

namespace Sys2Proof

/-- No instruction is longer than six bytes (R110): the decoder needs no more for the encoding's first six. -/
theorem encode_length {i : Instr} (wf : i.wf = true) : (encode i).length ≤ 6 := by
  by_contra longer
  have six : ((encode i).take 6).length = 6 := by rw [List.length_take]; omega
  obtain ⟨⟨j, r⟩, decoded⟩ := readsOnly_decode.2 _ six.ge
  obtain ⟨wf_j, split⟩ := readsOnly_decode.1 _ _ _ decoded
  have whole : encode i = encode j ++ (r ++ (encode i).drop 6) := by
    rw [← List.append_assoc, ← split, List.nil_append, List.take_append_drop]
  have again := decode_encode wf []
  rw [List.append_nil, whole, decode_encode wf_j, Except.ok.injEq, Prod.mk.injEq, List.append_eq_nil_iff] at again
  have short := congrArg List.length again.2.2
  rw [List.length_drop, List.length_nil] at short
  omega

end Sys2Proof

namespace Sys2Proof.Machine

/-- The bytes `bs` stand at CS:IP and the hart may execute them (R79). -/
def StandsAt (p : Config.Params) (h : Hart) (m : Memory) (bs : List Byte) : Prop :=
  ∀ k, k < bs.length → allowed p h.perm (lin p ⟨h.CS, h.IP + BitVec.ofNat 16 k⟩) .execute = true ∧
    bs[k]? = some (m.read p (lin p ⟨h.CS, h.IP + BitVec.ofNat 16 k⟩))

variable {p : Config.Params} {h : Hart} {m : Memory}

/-- A fetch reads the instruction that stands at CS:IP, whatever follows it. -/
theorem fetchInstr_encoded {i : Instr} (wf : i.wf = true) (stands : StandsAt p h m (encode i)) :
    fetchInstr p h m = .instruction i (encode i).length := by
  unfold fetchInstr
  rw [fetchBytes_append p h.perm m h.CS _ h.IP (encode i) Config.maxInstrBytes rfl (encode_length wf) stands]
  simp only [decode_encode wf, List.length_append, Nat.add_sub_cancel]

/-- A fetch ends at the first byte that may not be executed, if the bytes before it are no instruction (log 11). -/
theorem fetchInstr_denied {bs : List Byte} (stands : StandsAt p h m bs) (no_instr : ∀ i rest, decode bs ≠ .ok (i, rest))
    (denied : allowed p h.perm (lin p ⟨h.CS, h.IP + BitVec.ofNat 16 bs.length⟩) .execute = false) :
    fetchInstr p h m = .denied bs.length := by
  have short : bs.length < Config.maxInstrBytes := by
    by_contra enough
    obtain ⟨⟨i, rest⟩, decoded⟩ := readsOnly_decode.2 bs (Nat.le_of_not_lt enough)
    exact no_instr i rest decoded
  obtain ⟨more, left⟩ : ∃ more, Config.maxInstrBytes - bs.length = more + 1 := ⟨_, (Nat.succ_pred (by omega)).symm⟩
  have window : fetchBytes p h.perm m h.CS Config.maxInstrBytes h.IP = bs := by
    rw [fetchBytes_append p h.perm m h.CS _ h.IP bs Config.maxInstrBytes rfl short.le stands, left, fetchBytes, denied]
    simp
  unfold fetchInstr
  rw [window]
  cases decoded : decode bs with
  | error e => simp only [decoded]
  | ok read => exact absurd decoded (no_instr read.1 read.2)

/-- Settles O5. -/
theorem stepRunsEncoded : Obligations.StepRunsEncoded := by
  intro s h i going inRound running alive wf stands
  rw [step_slot going inRound running alive, State.runInstr, fetchInstr_encoded wf stands]

/-- Settles O6. -/
theorem fetchDeniedKills : Obligations.FetchDeniedKills := by
  rintro s h n bs going inRound running alive rfl stands no_instr denied
  rw [step_slot going inRound running alive, State.runInstr, fetchInstr_denied stands no_instr denied]
  rfl

end Sys2Proof.Machine
end

section
/-! SUPPORT. Addresses and words in memory: the address translator (R60 to R63), which byte an address names, and words
as two bytes (R70 to R72); and the statements AddressArithmetic and WordsAreLittleEndian. -/

namespace Sys2Proof.Machine

open Sys2Proof.Config (Params)

/-! ### The address translator -/

theorem addOffset_off_toNat (a : Addr) (d : Word) : (addOffset a d).off.toNat = (a.off.toNat + d.toNat) % 2 ^ 16 :=
  BitVec.toNat_add _ _

theorem sameAddress_iff (p : Params) (a b : Addr) : sameAddress p a b = true ↔ lin p a = lin p b := beq_iff_eq

/-- The segment and offset of a linear address fit their words where the parameters are legal (R62, log 29). -/
theorem fromLinear_toNat {p : Params} (legal : p.legal = true) {L : Nat} (bound : L < p.memorySize) :
    (fromLinear p L).seg.toNat = L / p.paragraphSize ∧ (fromLinear p L).off.toNat = L % p.paragraphSize := by
  obtain ⟨-, -, paragraph_fits, -, memory_fits, -⟩ := Params.legal_spec legal
  have paragraph_pos := Params.paragraphSize_pos legal
  have seg_fits : L / p.paragraphSize < 2 ^ 16 := Nat.div_lt_of_lt_mul (by rw [Nat.mul_comm]; omega)
  have off_fits : L % p.paragraphSize < 2 ^ 16 := (Nat.mod_lt L paragraph_pos).trans_le paragraph_fits
  exact ⟨Nat.mod_eq_of_lt seg_fits, Nat.mod_eq_of_lt off_fits⟩

/-- R62: `fromLinear` names the byte it is given. -/
theorem lin_fromLinear {p : Params} (legal : p.legal = true) {L : Nat} (bound : L < p.memorySize) :
    lin p (fromLinear p L) = L := by
  obtain ⟨seg, off⟩ := fromLinear_toNat legal bound
  rw [lin, seg, off, Nat.div_add_mod', Nat.mod_eq_of_lt bound]

/-! ### The byte an address names -/

variable {c : Cpu} {a b : Addr}

theorem byteAt_congr (same : lin c.params a = lin c.params b) : c.byteAt a = c.byteAt b := by
  simp only [Cpu.byteAt, same]

theorem readByte_congr (same : lin c.params a = lin c.params b) (ch : Channel) : readByte ch a c = readByte ch b c := by
  simp only [readByte, same]

theorem writeByte_congr (same : lin c.params a = lin c.params b) (v : Byte) : writeByte a v c = writeByte b v c := by
  simp only [writeByte, same]

/-- Settles O7: every clause is about linear addresses alone. -/
theorem addressArithmetic : Obligations.AddressArithmetic := by
  refine ⟨fun _ _ _ => rfl, fun _ _ => rfl, fun a d => ⟨rfl, addOffset_off_toNat a d⟩,
    fun p L legal bound => ⟨lin_fromLinear legal bound, fromLinear_toNat legal bound⟩,
    fun p a b => ⟨sameAddress_iff p a b, ?equal, Nat.compare_eq_lt, Nat.compare_eq_gt⟩,
    fun p a legal => (sameAddress_iff p _ a).mpr (lin_fromLinear legal (lin_lt legal a)), by decide,
    fun c a b same => ?_⟩
  case equal => rw [sameAddress_iff]; exact Nat.compare_eq_eq
  have same := (sameAddress_iff c.params a b).mp same
  exact ⟨byteAt_congr same, readByte_congr same, writeByte_congr same⟩

/-! ### Words -/

/-- An address space of more than one byte has an even size, so that a linear address is odd where its sum is. -/
theorem lin_mod_two {p : Params} (legal : p.legal = true) (two : 1 < p.memorySize) (a : Addr) :
    lin p a % 2 = (a.seg.toNat * p.paragraphSize + a.off.toNat) % 2 := by
  obtain ⟨-, -, -, power, -⟩ := Params.legal_spec legal
  have even : 2 ∣ p.memorySize := power ▸ dvd_pow_self 2 fun zero => by simp [power, zero] at two
  exact Nat.mod_mod_of_dvd _ even

/-- The two bytes of a word are two bytes, also where the offset wraps (R63, R72): one of their addresses is odd. -/
theorem lin_addOffset_one_ne {p : Params} (legal : p.legal = true) (two : 1 < p.memorySize) (a : Addr) :
    lin p (addOffset a 1) ≠ lin p a := by
  intro same
  have parity := lin_mod_two legal two (addOffset a 1)
  rw [same, lin_mod_two legal two a, addOffset_off_toNat] at parity
  simp only [addOffset, BitVec.reduceToNat] at parity
  omega

theorem joinBytes_halves (v : Word) : joinBytes (highByte v) (lowByte v) = v := by
  unfold joinBytes highByte lowByte
  rw [BitVec.extractLsb'_append_extractLsb'_eq_extractLsb' (start₁ := 0) (len₁ := 8) rfl]
  exact BitVec.extractLsb'_eq_self

/-- R71, R72: after a word store the low byte is at the address and the high byte one offset on, and no other byte has
changed. -/
theorem store16_read {c : Cpu} (a : Addr) (v : Word) (L : Nat) :
    (c.store16 a v).mem.read c.params L =
      if L = lin c.params (addOffset a 1) then highByte v else if L = lin c.params a then lowByte v
      else c.mem.read c.params L := by
  simp only [Cpu.store16, Cpu.store8_mem, Cpu.store8_params, read_write]

/-- Settles O11. -/
theorem wordsAreLittleEndian : Obligations.WordsAreLittleEndian := by
  intro c a v legal two
  have low : (c.store16 a v).byteAt a = lowByte v := by
    rw [Cpu.byteAt, store16_params, store16_read, if_neg (lin_addOffset_one_ne legal two a).symm, if_pos rfl]
  have high : (c.store16 a v).byteAt (addOffset a 1) = highByte v := by
    rw [Cpu.byteAt, store16_params, store16_read, if_pos rfl]
  refine ⟨by rw [Cpu.wordAt, low, high, joinBytes_halves], low, high, fun L not_low not_high => ?_⟩
  rw [store16_read]
  exact (if_neg not_high).trans (if_neg not_low)

end Sys2Proof.Machine
end

section
/-! SUPPORT. Permission tables: which accesses one allows (R83 to R85), what a grant makes of one (R86, R87), and that the
merged table of R86 is the only one of its kind; and the statements AllowedIsRegionBit and GrantSetsRange. -/

namespace Sys2Proof.Machine

open Sys2Proof.Config (Params)

/-! ### Access to a byte -/

/-- The check of one byte of memory looks at the region that covers it and no further (R85). -/
theorem checkAccess_byte {p : Params} (T : List Region) {L : Nat} (mask : Byte) (bound : L < p.memorySize) :
    checkAccess p T L 1 mask = permAt T L &&& mask := by
  have one_byte : min (L + 1) p.memorySize = L + 1 := by omega
  rw [permAt_dropWhile, checkAccess, one_byte]
  cases covering : T.dropWhile fun r => decide (r.stop ≤ L) with
  | nil => exact BitVec.zero_and.symm
  | cons r rest =>
    have ends : ¬ r.stop < L + 1 := by have := lt_stop_of_dropWhile covering; omega
    dsimp only
    rw [checkFrom, if_pos (Nat.lt_succ_self L), BitVec.and_comm]
    cases rest with
    | nil => rw [checkFrom, if_neg ends]
    | cons q more => rw [checkFrom, if_neg ends]

/-- Settles O8. -/
theorem allowedIsRegionBit : Obligations.AllowedIsRegionBit := by
  refine ⟨fun p T L ch _ bound => ?_, rfl, rfl, rfl⟩
  have bit_iff (bit : Byte) : (checkAccess p T L 1 bit == bit) = true ↔ permAt T L &&& bit = bit := by
    rw [checkAccess_byte T bit bound, beq_iff_eq]
  cases ch <;> exact bit_iff _

/-! ### The merged table is determined -/

theorem permAt_end {low : Nat} {T : List Region} (rising : risingFrom low T = true) {L : Nat} (past : endFrom low T ≤ L) :
    permAt T L = 0 := by
  have nothing_after := permAt_append (B := []) rising ((endFrom_ge rising).trans past)
  rwa [List.append_nil, if_neg (Nat.not_lt.mpr past)] at nothing_after

theorem stop_le_endFrom {low : Nat} {T : List Region} (rising : risingFrom low T = true) {r : Region} (hr : r ∈ T) :
    r.stop ≤ endFrom low T := by
  induction T generalizing low with
  | nil => contradiction
  | cons q T ih =>
    simp only [risingFrom, Bool.and_eq_true] at rising
    obtain rfl | later := List.mem_cons.mp hr
    · exact endFrom_ge rising.2
    · exact ih rising.2 later

/-- Of two tables that begin at `low`, end alike and read alike, neither has its first region end before the other's,
if no neighbours are alike: the next region would have the same permission. -/
theorem first_stop_le {low : Nat} {r q : Region} {U V : List Region} (U_rising : risingFrom low (r :: U) = true)
    (V_rising : risingFrom low (q :: V) = true) (ends : endFrom low (r :: U) = endFrom low (q :: V))
    (reads : ∀ L, low ≤ L → L < endFrom low (r :: U) → permAt (r :: U) L = permAt (q :: V) L)
    (distinct : (r :: U).IsChain fun a b => a.perm ≠ b.perm) : q.stop ≤ r.stop := by
  by_contra shorter
  simp only [risingFrom, Bool.and_eq_true, decide_eq_true_eq] at U_rising V_rising
  have V_end := endFrom_ge V_rising.2
  simp only [endFrom] at ends reads
  cases U with
  | nil => simp only [endFrom] at ends; omega
  | cons r' U =>
    have next_rising := U_rising.2
    simp only [risingFrom, Bool.and_eq_true, decide_eq_true_eq] at next_rising
    have at_low := reads low (Nat.le_refl _) (by omega)
    have at_stop := reads r.stop U_rising.1.le (by omega)
    simp only [permAt, if_pos U_rising.1, if_pos V_rising.1] at at_low
    simp only [permAt, if_neg (Nat.lt_irrefl r.stop), if_pos next_rising.1, if_pos (Nat.lt_of_not_le shorter)] at at_stop
    exact (List.isChain_cons_cons.mp distinct).1 (at_low.trans at_stop.symm)

/-- A table without neighbours alike is determined by where it ends and what it reads as below that. -/
theorem merged_unique {low : Nat} {U V : List Region} (U_rising : risingFrom low U = true)
    (V_rising : risingFrom low V = true) (ends : endFrom low U = endFrom low V)
    (reads : ∀ L, low ≤ L → L < endFrom low U → permAt U L = permAt V L)
    (U_distinct : U.IsChain fun a b => a.perm ≠ b.perm) (V_distinct : V.IsChain fun a b => a.perm ≠ b.perm) : U = V := by
  induction U generalizing low V with
  | nil =>
    cases V with
    | nil => rfl
    | cons q V =>
      simp only [risingFrom, Bool.and_eq_true, decide_eq_true_eq] at V_rising
      have := endFrom_ge V_rising.2
      simp only [endFrom] at ends
      omega
  | cons r U ih =>
    cases V with
    | nil =>
      simp only [risingFrom, Bool.and_eq_true, decide_eq_true_eq] at U_rising
      have := endFrom_ge U_rising.2
      simp only [endFrom] at ends
      omega
    | cons q V =>
      have stop : r.stop = q.stop := Nat.le_antisymm
        (first_stop_le V_rising U_rising ends.symm (fun L from_low below => (reads L from_low (ends ▸ below)).symm)
          V_distinct)
        (first_stop_le U_rising V_rising ends reads U_distinct)
      simp only [risingFrom, Bool.and_eq_true, decide_eq_true_eq] at U_rising V_rising
      simp only [endFrom] at ends reads
      have U_end := endFrom_ge U_rising.2
      have perm : r.perm = q.perm := by
        have at_low := reads low (Nat.le_refl _) (by omega)
        simpa only [permAt, if_pos U_rising.1, if_pos V_rising.1] using at_low
      have rest : U = V := by
        refine ih U_rising.2 (stop ▸ V_rising.2) (stop ▸ ends) (fun L from_stop below => ?_) U_distinct.tail
          V_distinct.tail
        have at_L := reads L (by omega) below
        rwa [permAt, permAt, if_neg (by omega), if_neg (by omega)] at at_L
      have first : r = q := by
        cases r
        cases q
        exact congrArg₂ Region.mk stop perm
      rw [first, rest]

/-! ### The table a grant makes -/

/-- The parts of the table of R86 before neighbours are merged: below the range, the gap up to it, the range, above. -/
def grantParts (p : Params) (T : List Region) (addr size : Nat) (perm : Byte) : List Region :=
  let hi := min (addr + size) p.memorySize
  let lo := min addr hi
  clipTable lo 0 T ++ (if tableEnd (clipTable lo 0 T) < lo then [⟨lo, 0⟩] else []) ++
    (if lo < hi then [⟨hi, perm⟩] else []) ++ T.filter fun r => decide (hi < r.stop)

theorem grantTable_eq_merge (p : Params) (T : List Region) (addr size : Nat) (perm : Byte) :
    grantTable p T addr size perm = mergeRegions (grantParts p T addr size perm) := rfl

/-- R86: every address of the range reads as the permission granted, every other as before. -/
theorem grantParts_spec {p : Params} {T : List Region} (addr size : Nat) (perm : Byte) (rising : risingFrom 0 T = true) :
    risingFrom 0 (grantParts p T addr size perm) = true ∧
      ∀ L, L < p.memorySize → permAt (grantParts p T addr size perm) L =
        if addr ≤ L ∧ L < addr + size then perm else permAt T L := by
  simp only [grantParts, tableEnd_eq_endFrom]
  generalize hi_eq : min (addr + size) p.memorySize = hi
  generalize lo_eq : min addr hi = lo
  obtain ⟨below_rising, below_end, below_whole⟩ := clipTable_rising (lo := lo) rising
  obtain ⟨gap_rising, gap_end⟩ := risingFrom_closing (stop := lo) 0 (by omega : endFrom 0 (clipTable lo 0 T) ≤ lo)
  obtain ⟨here_rising, here_end⟩ := risingFrom_closing perm (by omega : lo ≤ hi)
  have above_rising := (above_rising (hi := hi) rising).1
  rw [Nat.zero_max] at above_rising
  have to_lo := risingFrom_append.mpr ⟨below_rising, gap_rising⟩
  have to_hi := risingFrom_append.mpr ⟨to_lo, by rwa [endFrom_append, gap_end]⟩
  refine ⟨risingFrom_append.mpr ⟨to_hi, by rwa [endFrom_append, endFrom_append, gap_end, here_end]⟩, fun L bound => ?_⟩
  rw [permAt_append to_hi (Nat.zero_le L), endFrom_append, endFrom_append, gap_end, here_end]
  split
  · next below_hi =>
    rw [permAt_append to_lo (Nat.zero_le L), endFrom_append, gap_end]
    split
    · next below_lo =>
      have outside : ¬ (addr ≤ L ∧ L < addr + size) := by omega
      rw [if_neg outside, permAt_append below_rising (Nat.zero_le L)]
      split
      · exact permAt_clipTable rising (Nat.zero_le L) below_lo
      · next in_gap =>
        have whole := below_whole (by omega)
        rw [if_pos (by omega), permAt, if_pos below_lo, permAt_end rising (by rw [← whole]; omega)]
    · have inside : addr ≤ L ∧ L < addr + size := by omega
      rw [if_pos inside, if_pos (by omega), permAt, if_pos below_hi]
  · have outside : ¬ (addr ≤ L ∧ L < addr + size) := by omega
    rw [if_neg outside, permAt_above (by omega)]

/-- R87: a grant adds two boundaries at most. -/
theorem grantParts_length {p : Params} {T : List Region} (addr size : Nat) (perm : Byte)
    (rising : risingFrom 0 T = true) : (grantParts p T addr size perm).length ≤ T.length + 2 := by
  simp only [grantParts, tableEnd_eq_endFrom]
  generalize hi_eq : min (addr + size) p.memorySize = hi
  generalize lo_eq : min addr hi = lo
  have sides := clipTable_length (start := 0) (T := T) (by omega : lo ≤ hi)
  have here : (if lo < hi then [(⟨hi, perm⟩ : Region)] else []).length ≤ 1 := by split <;> simp
  simp only [List.length_append]
  split
  · next gap =>
    have whole := (clipTable_rising rising).2.2 gap
    rw [whole] at gap ⊢
    have none_above : (T.filter fun r => decide (hi < r.stop)) = [] := by
      refine List.filter_eq_nil_iff.mpr fun r hr => ?_
      have := stop_le_endFrom rising hr
      rw [decide_eq_true_eq]
      omega
    rw [none_above, List.length_singleton, List.length_nil]
    omega
  · rw [List.length_nil]
    omega

theorem grantTable_length {p : Params} {T : List Region} (addr size : Nat) (perm : Byte)
    (rising : risingFrom 0 T = true) : (grantTable p T addr size perm).length ≤ T.length + 2 := by
  obtain ⟨-, -, merged_length, -⟩ := mergeRegions_spec (grantParts_spec (p := p) addr size perm rising).1
  exact merged_length.trans (grantParts_length addr size perm rising)

/-- Settles O9: the table is the merge of its parts, and `merged_unique` says that there is no other. -/
theorem grantSetsRange : Obligations.GrantSetsRange := by
  intro p T addr size perm wf bits
  obtain ⟨rising, ends, -, -⟩ := tableWf_iff.mp wf
  obtain ⟨new_rising, new_end, -⟩ := grantTable_spec (p := p) addr size perm rising
  obtain ⟨parts_rising, parts_read⟩ := grantParts_spec (p := p) addr size perm rising
  obtain ⟨-, -, -, merged_read, -, merged_distinct⟩ := mergeRegions_spec parts_rising
  have new_read L (bound : L < p.memorySize) := (merged_read L (Nat.zero_le L)).trans (parts_read L bound)
  dsimp only
  refine ⟨fun empty => if_pos empty, fun nonempty => ⟨grantTable p T addr size perm,
    ⟨new_rising, new_end, new_read, merged_distinct⟩, ?unique,
    grantTable_length addr size perm rising, fun fits => ?fits, fun overflow => ?overflow⟩⟩
  case unique =>
    rintro V ⟨V_rising, V_end, V_read, V_distinct⟩
    have same_end := V_end.trans new_end.symm
    rw [tableEnd_eq_endFrom, tableEnd_eq_endFrom] at same_end
    refine merged_unique V_rising new_rising same_end (fun L _ below => ?_) V_distinct merged_distinct
    rw [← tableEnd_eq_endFrom, V_end] at below
    have bound : L < p.memorySize := by omega
    exact (V_read L bound).trans (new_read L bound).symm
  case fits =>
    have granted : grant p T addr size perm = some (grantTable p T addr size perm) := by
      rw [grant, if_neg nonempty, if_pos fits]
    exact ⟨granted, grant_wf wf bits granted⟩
  case overflow => rw [grant, if_neg nonempty, if_neg (Nat.not_le.mpr overflow)]

end Sys2Proof.Machine
end

section
/-! SUPPORT. When reset succeeds (R483 to R489): what its tests of a configuration say, and that three grants need six
regions at most (R87); and the statement ResetErrors. -/

namespace Sys2Proof.Machine

open Sys2Proof.Config (Params)

/-! ### The tests of a configuration -/

/-- R483, R484, R486 and log 29 of a configuration. -/
def ResetConfig.Legal (c : ResetConfig) : Prop :=
  c.params.legal = true ∧ 2 ≤ c.warriors.length ∧
    (∀ g ∈ c.groups, g.length = 1 ∨ g.length = 2) ∧
    (∀ v ∈ c.warriors, 1 ≤ v.image.length ∧ v.image.length ≤ c.params.maxWarriorSize ∧
      c.params.minGap ≤ v.loadOffset ∧ v.loadOffset + v.image.length + c.params.minGap ≤ c.params.arenaSize) ∧
    c.warriors.Pairwise (fun v w => v.loadOffset + v.image.length + c.params.minGap ≤ w.loadOffset ∨
      w.loadOffset + w.image.length + c.params.minGap ≤ v.loadOffset) ∧
    c.params.arenaEnd + c.groups.length * c.params.sharedSize + c.warriors.length * c.params.stackSize ≤
      c.params.memorySize

theorem valid_iff {c : ResetConfig} : c.valid = true ↔ 2 ≤ c.warriors.length ∧
    (∀ g ∈ c.groups, g.length = 1 ∨ g.length = 2) ∧
    ∀ v ∈ c.warriors, 1 ≤ v.image.length ∧ v.image.length ≤ c.params.maxWarriorSize := by
  simp only [ResetConfig.valid, Bool.and_eq_true, Bool.or_eq_true, decide_eq_true_eq, List.all_eq_true, beq_iff_eq,
    and_assoc]

theorem placed_iff {c : ResetConfig} : c.placed = true ↔
    (∀ v ∈ c.warriors, c.params.minGap ≤ v.loadOffset ∧
      v.loadOffset + v.image.length + c.params.minGap ≤ c.params.arenaSize) ∧
    c.warriors.Pairwise (fun v w => v.loadOffset + v.image.length + c.params.minGap ≤ w.loadOffset ∨
      w.loadOffset + w.image.length + c.params.minGap ≤ v.loadOffset) := by
  simp only [ResetConfig.placed, Bool.and_eq_true, List.all_eq_true, everyPair_apart, WarriorConfig.insideArena,
    decide_eq_true_eq]

/-- What reset tests before it makes the harts is what `ResetConfig.Legal` says. -/
theorem legal_iff {c : ResetConfig} : c.Legal ↔ c.params.legal = true ∧ c.valid = true ∧ c.placed = true ∧
    (allocGroups c.params 0 c.params.arenaEnd c.groups).2 ≤ c.params.memorySize := by
  rw [valid_iff, placed_iff, (allocGroups_spec c.params c.groups 0 _).1]
  constructor
  · rintro ⟨legal, two, groups, images, apart, fits⟩
    exact ⟨legal, ⟨two, groups, fun v hv => ⟨(images v hv).1, (images v hv).2.1⟩⟩,
      ⟨fun v hv => (images v hv).2.2, apart⟩, fits⟩
  · rintro ⟨legal, ⟨two, groups, sizes⟩, ⟨inside, apart⟩, fits⟩
    exact ⟨legal, two, groups, fun v hv => ⟨(sizes v hv).1, (sizes v hv).2, inside v hv⟩, apart, fits⟩

/-! ### The grants of reset -/

/-- A grant to a table with room for two more regions succeeds (R87). -/
theorem grant_with_room {p : Params} {T : List Region} (addr size : Nat) (perm : Byte) (rising : risingFrom 0 T = true)
    (room : T.length + 2 ≤ p.maxRegions) :
    ∃ U, grant p T addr size perm = some U ∧ risingFrom 0 U = true ∧ U.length ≤ T.length + 2 := by
  by_cases empty : size = 0
  · exact ⟨T, if_pos empty, rising, by omega⟩
  · have length := grantTable_length (p := p) addr size perm rising
    refine ⟨grantTable p T addr size perm, ?_, (grantTable_spec addr size perm rising).1, length⟩
    rw [grant, if_neg empty, if_pos (length.trans room)]

/-- The three grants of R487 need six regions at most. -/
theorem resetPerm_with_room {p : Params} (room : 6 ≤ p.maxRegions) (info : WarriorInfo) :
    ∃ T, resetPerm p info = some T := by
  obtain ⟨arena, arena_granted, arena_rising, arena_length⟩ :=
    grant_with_room (p := p) (T := []) p.arenaBase p.arenaSize p.permAll rfl (by rw [List.length_nil]; omega)
  rw [List.length_nil] at arena_length
  obtain ⟨stack, stack_granted, stack_rising, stack_length⟩ :=
    grant_with_room (p := p) info.stackLinear p.stackSize p.permData arena_rising (by omega)
  obtain ⟨shared, shared_granted, -⟩ :=
    grant_with_room (p := p) info.sharedLinear p.sharedSize p.permData stack_rising (by omega)
  exact ⟨shared, by simp [resetPerm, arena_granted, stack_granted, shared_granted]⟩

theorem resetHarts_with_room {p : Params} (room : 6 ≤ p.maxRegions) : ∀ infos : List WarriorInfo,
    ∃ hs, resetHarts p infos = some hs
  | [] => ⟨[], rfl⟩
  | info :: rest => by
    obtain ⟨T, granted⟩ := resetPerm_with_room room info
    obtain ⟨hs, others⟩ := resetHarts_with_room room rest
    exact ⟨Hart.atReset p info T :: hs, by simp [resetHarts, granted, others]⟩

/-! ### The whole -/

theorem resetBlock_with_room {c : ResetConfig} (room : 6 ≤ c.params.maxRegions) (legal : c.Legal) :
    (resetBlock c).isSome = true := by
  obtain ⟨params, valid, placed, fits⟩ := legal_iff.mp legal
  obtain ⟨hs, made⟩ := resetHarts_with_room room (allocGroups c.params 0 c.params.arenaEnd c.groups).1
  simp [resetBlock, params, valid, placed, fits, made]

/-- Whatever reset answers, its configuration was legal and every table has room for its regions (R87). -/
theorem resetBlock_legal {c : ResetConfig} {s : State} (h : resetBlock c = some s) :
    c.Legal ∧ ∀ h ∈ s.harts, h.perm.length ≤ c.params.maxRegions := by
  obtain ⟨params, valid, placed, fits, hs, made, rfl⟩ := resetBlock_spec h
  refine ⟨legal_iff.mpr ⟨params, valid, placed, fits⟩, fun h hh => ?_⟩
  obtain ⟨-, -, length, -⟩ := tableWf_iff.mp ((resetHarts_spec made).2 h hh).2
  exact length

/-- Settles O60. -/
theorem resetErrors : Obligations.ResetErrors := by
  intro c
  refine ⟨fun room => ⟨fun some_state => ?_, resetBlock_with_room room⟩, fun s => resetBlock_legal⟩
  obtain ⟨s, made⟩ := Option.isSome_iff_exists.mp some_state
  exact (resetBlock_legal made).1

end Sys2Proof.Machine
end

section
/-! SUPPORT. Where each instruction stores (R76, R77, R118, R231, R290, R402, R403): every instruction is a sequence of
operations that changes memory at the addresses of `Instr.stores` alone; and the statement MemoryFrame. -/

namespace Sys2Proof.Machine

/-- `i` is some sequence of operations that changes memory only at the addresses `i` stores to. -/
def StoresOnly (i : Instr) : Prop :=
  ∃ m, (∀ s, exec i s = perform m s) ∧ ∀ c, StoresIn (i.stores c) c (Exec.left (m c))

variable {i : Instr} {m : Exec Unit}

/-! ### Instructions that store nothing, and operands -/

/-- An instruction of registers and reads alone. -/
theorem storesOnly_silent (performed : exec i = perform m)
    (silent : ∀ {A}, Leaves (StoresIn A) i → Stays (StoresIn A) m) : StoresOnly i :=
  ⟨m, fun s => congrFun performed s, fun c => silent (leaves_storesIn _ i) c⟩

/-- An instruction on an `Eb` operand, which it assigns only if that is its destination (R118, R120). -/
theorem storesOnly_rm8 {rm : Rm8} {k : Operand 8 → Exec Unit} (performed : exec i = perform (withRm8 rm k))
    (stays : ∀ {A} {d : Operand 8}, Leaves (StoresIn A) i → Stays (StoresIn A) d.get →
      (i.dest8 = some rm → ∀ v, Stays (StoresIn A) (d.set v)) → Stays (StoresIn A) (k d)) : StoresOnly i := by
  refine ⟨withRm8 rm k, fun s => congrFun performed s, fun c => ?_⟩
  have F := leaves_storesIn (i.stores c) i
  rw [withRm8_apply]
  exact stays F (F.get8 c.hart rm) (fun dest => operand8_set_storesIn dest) c

/-- An instruction on an `Ew` operand, which it assigns only if that is its destination (R118, R120). -/
theorem storesOnly_rm16 {rm : Rm16} {k : Operand 16 → Exec Unit} (performed : exec i = perform (withRm16 rm k))
    (stays : ∀ {A} {d : Operand 16}, Leaves (StoresIn A) i → Stays (StoresIn A) d.get →
      (i.dest16 = some rm → ∀ v, Stays (StoresIn A) (d.set v)) → Stays (StoresIn A) (k d)) : StoresOnly i := by
  refine ⟨withRm16 rm k, fun s => congrFun performed s, fun c => ?_⟩
  have F := leaves_storesIn (i.stores c) i
  rw [withRm16_apply]
  exact stays F (F.get16 c.hart rm) (fun dest => operand16_set_storesIn dest) c

/-- CMP and TEST assign nothing (R179, R180). -/
theorem alu_compares {R : Cpu → Cpu → Prop} {n : Nat} {op : AluOp} {d s : Operand n} (F : Leaves R i)
    (mask : i.flagMask = 0x08D5) (compares : op.writes = false) (dst : Stays R d.get) (src : Stays R s.get) :
    Stays R (alu op d s) :=
  F.alu mask dst src fun writes => by rw [compares] at writes; contradiction

/-- A two-operand operation on AL and an immediate. -/
theorem storesOnly_alImm (op : AluOp) (imm : Byte) (performed : exec i = perform (alu op (byteReg .AL) (immediate imm)))
    (mask : i.flagMask = 0x08D5) (writes : op.writes = true → .AL ∈ i.byteRegs) : StoresOnly i :=
  storesOnly_silent performed fun F => F.alu mask (F.byteGet _) (F.immGet _) fun w => F.byteSet (writes w)

/-- A two-operand operation on AX and an immediate. -/
theorem storesOnly_axImm (op : AluOp) (imm : Word) (performed : exec i = perform (alu op (wordReg .AX) (immediate imm)))
    (mask : i.flagMask = 0x08D5) (writes : op.writes = true → .AX ∈ i.wordRegs) : StoresOnly i :=
  storesOnly_silent performed fun F => F.alu mask (F.wordGet _) (F.immGet _) fun w => F.wordSet (writes w)

/-- What a triple says of an instruction whose hart meets the precondition. -/
theorem storesOnly_triple {P : Hart → Hart → Prop} (performed : exec i = perform m) (start : ∀ g, P g g)
    (triple : ∀ c, StoreTriple (i.stores c) c (P c.hart) m noClaim) : StoresOnly i :=
  ⟨m, fun s => congrFun performed s, fun c => (triple c c (StoresIn.refl _ c) (start c.hart)).1⟩

/-- `MOV [moffs16], AL` and `MOV [moffs16], AX` (R205): the address by DS as it is. -/
theorem storesOnly_moffs {n : Nat} {o : Word} {at_ : Addr → Operand n} {src : Operand n}
    (performed : exec i = perform (atMoffs16 o fun a => move (at_ a) src))
    (read : ∀ {A}, Leaves (StoresIn A) i → Stays (StoresIn A) src.get)
    (write : ∀ c v, Stays (StoresIn (i.stores c)) ((at_ ⟨c.hart.DS, o⟩).set v)) : StoresOnly i := by
  refine ⟨_, fun s => congrFun performed s, fun c => ?_⟩
  have F := leaves_storesIn (i.stores c) i
  simp only [atMoffs16, exec_bind, getHart_apply]
  exact F.move (read F) (write c) c

theorem stays_byteAt_set {A : List Addr} {a : Addr} (inside : a ∈ A) (v : Byte) :
    Stays (StoresIn A) ((byteAt a).set v) :=
  fun c => (StoreTriple.write (P := fun _ => True) fun _ _ => inside) c (StoresIn.refl A c) trivial |>.1

theorem stays_wordAt_set {A : List Addr} {a : Addr} (inside : ∀ b ∈ wordAddrs a, b ∈ A) (v : Word) :
    Stays (StoresIn A) ((wordAt a).set v) :=
  fun c => (StoreTriple.write16 (P := fun _ => True) fun _ _ => inside) c (StoresIn.refl A c) trivial |>.1

/-! ### Pushes -/

section

variable {A : List Addr} {c0 : Cpu} {g : Hart} {P : Hart → Prop} {n : Nat}

/-- The slots of the next `n` pushes from `g` are among the addresses `A`. -/
def SlotsIn (A : List Addr) (g : Hart) (n : Nat) : Prop := ∀ j, j < n → ∀ b ∈ wordAddrs (g.pushSlot j), b ∈ A

/-- An instruction whose only stores are its pushes (R231). -/
theorem storesOnly_pushes (n : Nat) (performed : exec i = perform m) (pushes : i.pushes = n)
    (triple : ∀ {A c0 g}, SlotsIn A g n → StoreTriple A c0 (PushedTo g 0) m noClaim) : StoresOnly i :=
  storesOnly_triple (P := fun g => PushedTo g 0) performed PushedTo.zero fun _ => triple (pushes ▸ pushSlot_mem_stores)

/-- Looking at the registers. -/
theorem storeTriple_hart {k : Hart → Exec Unit} (rest : ∀ x, StoreTriple A c0 P (k x) noClaim) :
    StoreTriple A c0 P (getHart >>= k) noClaim :=
  StoreTriple.bind StoreTriple.get fun x => (rest x).pre fun _ h => h.2

theorem storeTriple_done {f : Hart → Hart} : StoreTriple A c0 P (modHart f) noClaim :=
  StoreTriple.mod fun _ _ => trivial

theorem storeTriple_wordReg_get (r : Reg16) : StoreTriple A c0 P (wordReg r).get (fun _ => P) :=
  StoreTriple.bind StoreTriple.get fun _ => (StoreTriple.pure _).pre fun _ h => h.2

theorem storeTriple_operand16_get (x : Hart) (rm : Rm16) : StoreTriple A c0 P (x.operand16 rm).get (fun _ => P) := by
  cases rm with
  | reg r => exact storeTriple_wordReg_get r
  | mem a => exact StoreTriple.read16

theorem storeTriple_farPointer (a : Addr) : StoreTriple A c0 P (readFarPointer a) (fun _ => P) :=
  StoreTriple.bind StoreTriple.read16 fun _ => StoreTriple.bind StoreTriple.read16 fun _ => StoreTriple.pure _

/-- One push and nothing after it. -/
theorem storeTriple_push_last (slots : SlotsIn A g n) {k : Nat} (bound : k < n) (v : Word) :
    StoreTriple A c0 (PushedTo g k) (push16 v) noClaim :=
  (StoreTriple.pushAt slots bound).post fun _ _ _ => trivial

theorem storeTriple_pushOperand {src : Operand 16} (slots : SlotsIn A g 1)
    (read : StoreTriple A c0 (PushedTo g 0) src.get fun _ => PushedTo g 0) :
    StoreTriple A c0 (PushedTo g 0) (pushOperand src) noClaim :=
  StoreTriple.bind read fun v => storeTriple_push_last slots Nat.one_pos v

theorem storeTriple_callFar (slots : SlotsIn A g 2) (o s : Word) :
    StoreTriple A c0 (PushedTo g 0) (callFar o s) noClaim :=
  storeTriple_hart fun _ => StoreTriple.bind (StoreTriple.pushAt slots Nat.two_pos) fun _ =>
    StoreTriple.bind (StoreTriple.pushAt slots Nat.one_lt_two) fun _ => storeTriple_done

theorem storeTriple_pushAll (slots : SlotsIn A g 8) : StoreTriple A c0 (PushedTo g 0) pushAll noClaim :=
  storeTriple_hart fun x => storeTriple_pushes [x.AX, x.CX, x.DX, x.BX, x.SP, x.BP, x.SI] 0 8 slots (by simp)
    (push16 x.DI) (storeTriple_push_last slots (by simp) x.DI)

end

/-! ### Strings and bombs -/

/-- A string instruction, repeated or not, stores from `ES:DI` on (R290, R291). -/
theorem storesOnly_string (b : Nat) (performed : exec i = perform m)
    (triple : ∀ c, StoreTriple (i.stores c) c (AtElement b c.hart 0) m noClaim) : StoresOnly i :=
  storesOnly_triple (P := fun g => AtElement b g 0) performed (AtElement.zero b) triple

/-- A repeated string instruction stores its CX elements (R291). -/
theorem storesOnly_repeat (b : Nat) {body : Exec Unit} {stop : Flags → Bool}
    (performed : exec i = perform (repeatString body stop))
    (element : ∀ (c : Cpu) (k : Nat), k < c.hart.CX.toNat →
      StoreTriple (i.stores c) c (AtElement b c.hart k) body fun _ => AtElement b c.hart (k + 1)) : StoresOnly i :=
  storesOnly_triple (P := fun g x => x = g) performed (fun _ => rfl) fun c => storeTriple_repeatString (element c)

/-- INT 0x86 (R402): the 128 words from `ES:DI` on, or nothing. -/
theorem storesOnly_carpetBomb : StoresOnly .int86 := by
  refine storesOnly_string 2 rfl fun c => storeTriple_hart fun x => ?_
  refine StoreTriple.ite (fun _ => (StoreTriple.pure ()).post fun _ _ _ => trivial) fun _ => ?_
  exact StoreTriple.bind (StoreTriple.mod (Q := AtElement 2 c.hart 0) fun _ h => h) fun _ =>
    storeTriple_bombPairs (target_word_mem_stores 128 rfl) 64 0 (by omega)

/-- INT 0x87 (R403): the two words of the first match, or nothing. -/
theorem storesOnly_smartBomb : StoresOnly .int87 := by
  refine ⟨smartBomb, fun _ => rfl, fun c => ?_⟩
  simp only [smartBomb, exec_bind, getHart_apply]
  split
  · exact StoresIn.refl _ c
  · rw [exec_bind_ok (modHart_apply _ c)]
    have searched := bombSearch_stores c (c.setHart { c.hart with bomb1 := c.hart.bomb1 - 1 }) rfl rfl rfl rfl rfl rfl
      0x10000 (Nat.le_refl _) fun j impossible => absurd impossible (by omega)
    exact StoresIn.trans ⟨rfl, fun _ _ => rfl⟩ searched

/-! ### Every instruction -/

/-- What each instruction is made of, by the operations of its row. -/
theorem exec_storesOnly {i : Instr} (wf : i.wf = true) : StoresOnly i := by
  cases i
  case addEbGb | orEbGb | adcEbGb | sbbEbGb | andEbGb | subEbGb | xorEbGb =>
    exact storesOnly_rm8 rfl fun F get set => F.alu rfl get (F.byteGet _) fun _ => set rfl
  case addEbImm8 | orEbImm8 | adcEbImm8 | sbbEbImm8 | andEbImm8 | subEbImm8 | xorEbImm8 =>
    exact storesOnly_rm8 rfl fun F get set => F.alu rfl get (F.immGet _) fun _ => set rfl
  case addGbEb | orGbEb | adcGbEb | sbbGbEb | andGbEb | subGbEb | xorGbEb =>
    exact storesOnly_rm8 rfl fun F get set => F.alu rfl (F.byteGet _) get fun _ => F.byteSet (.head _)
  case cmpEbGb | testEbGb =>
    exact storesOnly_rm8 rfl fun F get set => alu_compares F rfl rfl get (F.byteGet _)
  case cmpGbEb =>
    exact storesOnly_rm8 rfl fun F get set => alu_compares F rfl rfl (F.byteGet _) get
  case cmpEbImm8 | testEbImm8 =>
    exact storesOnly_rm8 rfl fun F get set => alu_compares F rfl rfl get (F.immGet _)
  case addEwGw | orEwGw | adcEwGw | sbbEwGw | andEwGw | subEwGw | xorEwGw =>
    exact storesOnly_rm16 rfl fun F get set => F.alu rfl get (F.wordGet _) fun _ => set rfl
  case addEwImm16 | orEwImm16 | adcEwImm16 | sbbEwImm16 | andEwImm16 | subEwImm16 | xorEwImm16 | addEwSimm8 |
    orEwSimm8 | adcEwSimm8 | sbbEwSimm8 | andEwSimm8 | subEwSimm8 | xorEwSimm8 =>
    exact storesOnly_rm16 rfl fun F get set => F.alu rfl get (F.immGet _) fun _ => set rfl
  case addGwEw | orGwEw | adcGwEw | sbbGwEw | andGwEw | subGwEw | xorGwEw =>
    exact storesOnly_rm16 rfl fun F get set => F.alu rfl (F.wordGet _) get fun _ => F.wordSet (.head _)
  case cmpEwGw | testEwGw =>
    exact storesOnly_rm16 rfl fun F get set => alu_compares F rfl rfl get (F.wordGet _)
  case cmpGwEw =>
    exact storesOnly_rm16 rfl fun F get set => alu_compares F rfl rfl (F.wordGet _) get
  case cmpEwImm16 | cmpEwSimm8 | testEwImm16 =>
    exact storesOnly_rm16 rfl fun F get set => alu_compares F rfl rfl get (F.immGet _)
  case addAlImm8 imm => exact storesOnly_alImm .add imm rfl rfl fun _ => .head _
  case orAlImm8 imm => exact storesOnly_alImm .or imm rfl rfl fun _ => .head _
  case adcAlImm8 imm => exact storesOnly_alImm .adc imm rfl rfl fun _ => .head _
  case sbbAlImm8 imm => exact storesOnly_alImm .sbb imm rfl rfl fun _ => .head _
  case andAlImm8 imm => exact storesOnly_alImm .and imm rfl rfl fun _ => .head _
  case subAlImm8 imm => exact storesOnly_alImm .sub imm rfl rfl fun _ => .head _
  case xorAlImm8 imm => exact storesOnly_alImm .xor imm rfl rfl fun _ => .head _
  case cmpAlImm8 imm => exact storesOnly_alImm .cmp imm rfl rfl nofun
  case testAlImm8 imm => exact storesOnly_alImm .test imm rfl rfl nofun
  case addAxImm16 imm => exact storesOnly_axImm .add imm rfl rfl fun _ => .head _
  case orAxImm16 imm => exact storesOnly_axImm .or imm rfl rfl fun _ => .head _
  case adcAxImm16 imm => exact storesOnly_axImm .adc imm rfl rfl fun _ => .head _
  case sbbAxImm16 imm => exact storesOnly_axImm .sbb imm rfl rfl fun _ => .head _
  case andAxImm16 imm => exact storesOnly_axImm .and imm rfl rfl fun _ => .head _
  case subAxImm16 imm => exact storesOnly_axImm .sub imm rfl rfl fun _ => .head _
  case xorAxImm16 imm => exact storesOnly_axImm .xor imm rfl rfl fun _ => .head _
  case cmpAxImm16 imm => exact storesOnly_axImm .cmp imm rfl rfl nofun
  case testAxImm16 imm => exact storesOnly_axImm .test imm rfl rfl nofun
  case incReg16 =>
    exact storesOnly_silent rfl fun F => F.increment rfl (F.wordGet _) (F.wordSet (.head _))
  case decReg16 =>
    exact storesOnly_silent rfl fun F => F.decrement rfl (F.wordGet _) (F.wordSet (.head _))
  case popReg16 =>
    exact storesOnly_silent rfl fun F => F.popOperand (.head _) (F.wordSet (.tail _ (.head _)))
  case imulGwEwImm16 | imulGwEwSimm8 =>
    exact storesOnly_rm16 rfl fun F get _ => F.imulThree rfl get (.head _)
  case joRel8 | jnoRel8 | jbRel8 | jnbRel8 | jzRel8 | jnzRel8 | jbeRel8 | jaRel8 | jsRel8 | jnsRel8 | jpRel8 |
    jnpRel8 | jlRel8 | jgeRel8 | jleRel8 | jgRel8 =>
    exact storesOnly_silent rfl fun F => F.jumpIf rfl
  case xchgGbEb =>
    exact storesOnly_rm8 rfl fun F get set => F.exchange (F.byteGet _) get (F.byteSet (.head _)) (set rfl)
  case xchgGwEw =>
    exact storesOnly_rm16 rfl fun F get set => F.exchange (F.wordGet _) get (F.wordSet (.head _)) (set rfl)
  case movEbGb =>
    exact storesOnly_rm8 rfl fun F get set => F.move (F.byteGet _) (set rfl)
  case movEwGw =>
    exact storesOnly_rm16 rfl fun F get set => F.move (F.wordGet _) (set rfl)
  case movGbEb =>
    exact storesOnly_rm8 rfl fun F get _ => F.move get (F.byteSet (.head _))
  case movGwEw =>
    exact storesOnly_rm16 rfl fun F get _ => F.move get (F.wordSet (.head _))
  case movEwSw =>
    exact storesOnly_rm16 rfl fun F get set => F.bind F.getHart fun _ => set rfl _
  case leaGwM r m =>
    exact storesOnly_silent (m := modHart fun x => x.set16 r (x.ea m).off) rfl fun F => F.setWord (.inl (.head _)) _
  case leaRegister | invalid8Fs1 | invalid8Fs2 | invalid8Fs3 | invalid8Fs4 | invalid8Fs5 | invalid8Fs6 |
    invalid8Fs7 | nrgBroken | invalidC0s6 | invalidC1s6 | invalidD0s6 | invalidD1s6 | invalidD2s6 | invalidD3s6 |
    lesRegister | ldsRegister | invalidC6s1 | invalidC6s2 | invalidC6s3 | invalidC6s4 | invalidC6s5 | invalidC6s6 |
    invalidC6s7 | invalidC7s1 | invalidC7s2 | invalidC7s3 | invalidC7s4 | invalidC7s5 | invalidC7s6 | invalidC7s7 |
    esc | repnzBroken | repBroken | invalidF6s1 | invalidF7s1 | invalidFEs2 | invalidFEs3 | invalidFEs4 |
    invalidFEs5 | invalidFEs6 | invalidFEs7 | invalidFFs7 | callFarRegister | jmpFarRegister | invalid0F |
    esOverride | csOverride | ssOverride | dsOverride | daa | das | aaa | aas | aam | aad | bound | invalid63 |
    invalid64 | invalid65 | invalid66 | invalid67 | insb | insw | outsb | outsw | invalid82 | invalidD6 | inAlImm8 |
    inAxImm8 | outImm8Al | outImm8Ax | inAlDx | inAxDx | outDxAl | outDxAx | lock | invalidF1 | hlt =>
    exact storesOnly_silent rfl fun F => F.raise _
  case movSwEw =>
    exact storesOnly_rm16 rfl fun F get _ => F.bind get fun v => F.setSeg (.head _) fun _ => v
  case popEw =>
    exact storesOnly_rm16 rfl fun F get set => F.popOperand (.head _) (set rfl)
  case xchgAxReg16 =>
    exact storesOnly_silent rfl fun F =>
      F.exchange (F.wordGet _) (F.wordGet _) (F.wordSet (.tail _ (.head _))) (F.wordSet (.head _))
  case movAlMoffs16 =>
    exact storesOnly_silent rfl fun F => F.bind F.getHart fun _ => F.move (F.readByte _ _) (F.byteSet (.head _))
  case movAxMoffs16 =>
    exact storesOnly_silent rfl fun F => F.bind F.getHart fun _ => F.move (F.read16 _) (F.wordSet (.head _))
  case movReg8Imm8 =>
    exact storesOnly_silent rfl fun F => F.move (F.immGet _) (F.byteSet (.head _))
  case movReg16Imm16 =>
    exact storesOnly_silent rfl fun F => F.move (F.immGet _) (F.wordSet (.head _))
  case rolEbImm8 | rorEbImm8 | rclEbImm8 | rcrEbImm8 | shlEbImm8 | shrEbImm8 | sarEbImm8 | rolEb1 | rorEb1 | rclEb1 |
    rcrEb1 | shlEb1 | shrEb1 | sarEb1 =>
    exact storesOnly_rm8 rfl fun F get set => F.shift rfl get (set rfl)
  case rolEwImm8 | rorEwImm8 | rclEwImm8 | rcrEwImm8 | shlEwImm8 | shrEwImm8 | sarEwImm8 | rolEw1 | rorEw1 | rclEw1 |
    rcrEw1 | shlEw1 | shrEw1 | sarEw1 =>
    exact storesOnly_rm16 rfl fun F get set => F.shift rfl get (set rfl)
  case rolEbCl | rorEbCl | rclEbCl | rcrEbCl | shlEbCl | shrEbCl | sarEbCl =>
    exact storesOnly_rm8 rfl fun F get set => F.shiftCl rfl get (set rfl)
  case rolEwCl | rorEwCl | rclEwCl | rcrEwCl | shlEwCl | shrEwCl | sarEwCl =>
    exact storesOnly_rm16 rfl fun F get set => F.shiftCl rfl get (set rfl)
  case retImm16 | ret =>
    exact storesOnly_silent rfl fun F => F.nearReturn rfl (.head _)
  case lesGwM | ldsGwM =>
    exact storesOnly_silent rfl fun F => F.loadFarPointer (.head _) (.head _)
  case movEbImm8 =>
    exact storesOnly_rm8 rfl fun F get set => F.move (F.immGet _) (set rfl)
  case movEwImm16 =>
    exact storesOnly_rm16 rfl fun F get set => F.move (F.immGet _) (set rfl)
  case retfImm16 | retf =>
    exact storesOnly_silent rfl fun F => F.farReturn rfl (.head _) (.head _)
  case loopnzRel8 | loopzRel8 | loopRel8 =>
    exact storesOnly_silent rfl fun F => F.loopWhile rfl (.head _)
  case jcxzRel8 =>
    exact storesOnly_silent rfl fun F => F.jumpIfCxZero rfl
  case jmpRel16 | jmpRel8 =>
    exact storesOnly_silent rfl fun F => F.jumpBy rfl
  case jmpPtr1616 =>
    exact storesOnly_silent rfl fun F => F.jumpFar rfl (.head _)
  case notEb =>
    exact storesOnly_rm8 rfl fun F get set => F.complement get (set rfl)
  case negEb =>
    exact storesOnly_rm8 rfl fun F get set => F.negate rfl get (set rfl)
  case mulEb =>
    exact storesOnly_rm8 rfl fun F get _ => F.mulByte rfl get (.head _)
  case imulEb =>
    exact storesOnly_rm8 rfl fun F get _ => F.imulByte rfl get (.head _)
  case divEb =>
    exact storesOnly_rm8 rfl fun F get _ => F.divByte rfl get (.head _)
  case idivEb =>
    exact storesOnly_rm8 rfl fun F get _ => F.idivByte rfl get (.head _)
  case notEw =>
    exact storesOnly_rm16 rfl fun F get set => F.complement get (set rfl)
  case negEw =>
    exact storesOnly_rm16 rfl fun F get set => F.negate rfl get (set rfl)
  case mulEw =>
    exact storesOnly_rm16 rfl fun F get _ => F.mulWord rfl get (.head _) (.tail _ (.head _))
  case imulEw =>
    exact storesOnly_rm16 rfl fun F get _ => F.imulWord rfl get (.head _) (.tail _ (.head _))
  case divEw =>
    exact storesOnly_rm16 rfl fun F get _ => F.divWord rfl get (.head _) (.tail _ (.head _))
  case idivEw =>
    exact storesOnly_rm16 rfl fun F get _ => F.idivWord rfl get (.head _) (.tail _ (.head _))
  case incEb =>
    exact storesOnly_rm8 rfl fun F get set => F.increment rfl get (set rfl)
  case decEb =>
    exact storesOnly_rm8 rfl fun F get set => F.decrement rfl get (set rfl)
  case incEw =>
    exact storesOnly_rm16 rfl fun F get set => F.increment rfl get (set rfl)
  case decEw =>
    exact storesOnly_rm16 rfl fun F get set => F.decrement rfl get (set rfl)
  case jmpEw =>
    exact storesOnly_rm16 rfl fun F get _ => F.jumpIndirect rfl get
  case jmpFarM =>
    exact storesOnly_silent rfl fun F => F.jumpFarIndirect rfl (.head _)
  case popEs | popSs | popDs =>
    exact storesOnly_silent rfl fun F => F.popSreg (.head _) (.head _)
  case popa =>
    exact storesOnly_silent rfl fun F => F.popAll fun q => by cases q <;> decide
  case nop =>
    exact storesOnly_silent rfl fun F => F.pure ()
  case cbw =>
    exact storesOnly_silent rfl fun F => F.setWord (q := .AX) (.inl (.head _)) fun x => sext8 (x.get8 .AL)
  case cwd =>
    exact storesOnly_silent rfl fun F => F.setWord (q := .DX) (.inl (.head _)) fun x => if x.AX.msb then 0xFFFF else 0
  case nrg =>
    exact storesOnly_silent rfl fun F => F.gainEnergy rfl
  case popf =>
    exact storesOnly_silent rfl fun F => F.popFlags rfl (.head _)
  case sahf =>
    exact storesOnly_silent rfl fun F => F.bind F.getHart fun x => F.setFlags fun f => outside_fromAH f (x.get8 .AH)
  case lahf =>
    exact storesOnly_silent rfl fun F => F.setByte (q := .AH) (.inl (.head _)) fun x => lowByte x.flags.toWord
  case cmpsb =>
    exact storesOnly_silent rfl fun F => F.cmps8 rfl (.head _) (.tail _ (.head _))
  case cmpsw =>
    exact storesOnly_silent rfl fun F => F.cmps16 rfl (.head _) (.tail _ (.head _))
  case lodsb =>
    exact storesOnly_silent rfl fun F => F.lods8 (.head _) (.head _)
  case lodsw =>
    exact storesOnly_silent rfl fun F => F.lods16 (.head _) (.tail _ (.head _))
  case scasb =>
    exact storesOnly_silent rfl fun F => F.scas8 rfl (.head _)
  case scasw =>
    exact storesOnly_silent rfl fun F => F.scas16 rfl (.head _)
  case leave =>
    exact storesOnly_silent rfl fun F => F.leaveFrame (.head _) (.tail _ (.head _))
  case int88 =>
    exact storesOnly_silent rfl fun F => F.thirdBomb rfl
  case iret =>
    exact storesOnly_silent rfl fun F => F.interruptReturn rfl rfl (.head _) (.head _)
  case xlat =>
    exact storesOnly_silent rfl fun F =>
      F.bind F.getHart fun _ => F.bind (F.readByte _ _) fun v => F.byteSet (.head _) v
  case repnzCmpsb | repzCmpsb =>
    exact storesOnly_silent rfl fun F =>
      F.repeatString (.head _) (F.cmps8 rfl (.tail _ (.head _)) (.tail _ (.tail _ (.head _))))
  case repnzCmpsw | repzCmpsw =>
    exact storesOnly_silent rfl fun F =>
      F.repeatString (.head _) (F.cmps16 rfl (.tail _ (.head _)) (.tail _ (.tail _ (.head _))))
  case repnzLodsb | repLodsb =>
    exact storesOnly_silent rfl fun F => F.repeatString (.head _) (F.lods8 (.head _) (.tail _ (.head _)))
  case repnzLodsw | repLodsw =>
    exact storesOnly_silent rfl fun F =>
      F.repeatString (.head _) (F.lods16 (.tail _ (.head _)) (.tail _ (.tail _ (.head _))))
  case repnzScasb | repzScasb =>
    exact storesOnly_silent rfl fun F => F.repeatString (.head _) (F.scas8 rfl (.tail _ (.head _)))
  case repnzScasw | repzScasw =>
    exact storesOnly_silent rfl fun F => F.repeatString (.head _) (F.scas16 rfl (.tail _ (.head _)))
  case cmc =>
    exact storesOnly_silent rfl fun F => F.setFlags fun f => outside_cf f (!f.CF)
  case clc | stc =>
    exact storesOnly_silent rfl fun F => F.setFlags fun f => outside_cf f _
  case cli | sti =>
    exact storesOnly_silent rfl fun F => F.setFlags fun f => outside_if f _
  case cld | std =>
    exact storesOnly_silent rfl fun F => F.setFlags fun f => outside_df f _
  case pushReg16 =>
    exact storesOnly_pushes 1 rfl rfl fun slots => storeTriple_pushOperand slots (storeTriple_wordReg_get _)
  case pushImm16 | pushSimm8 =>
    exact storesOnly_pushes 1 rfl rfl fun slots => storeTriple_pushOperand slots (StoreTriple.pure _)
  case pushEw =>
    exact storesOnly_pushes 1 rfl rfl fun slots => storeTriple_hart fun x =>
      storeTriple_pushOperand slots (storeTriple_operand16_get x _)
  case pushEs | pushCs | pushSs | pushDs | pushf =>
    exact storesOnly_pushes 1 rfl rfl fun slots => storeTriple_hart fun _ => storeTriple_push_last slots Nat.one_pos _
  case callRel16 =>
    exact storesOnly_pushes 1 rfl rfl fun slots => storeTriple_hart fun _ =>
      StoreTriple.bind (storeTriple_push_last slots Nat.one_pos _) fun _ => storeTriple_done
  case callEw =>
    exact storesOnly_pushes 1 rfl rfl fun slots => storeTriple_hart fun x =>
      StoreTriple.bind (storeTriple_operand16_get x _) fun _ => storeTriple_hart fun _ =>
        StoreTriple.bind (storeTriple_push_last slots Nat.one_pos _) fun _ => storeTriple_done
  case callPtr1616 =>
    exact storesOnly_pushes 2 rfl rfl fun slots => storeTriple_callFar slots _ _
  case callFarM =>
    exact storesOnly_pushes 2 rfl rfl fun slots => storeTriple_hart fun _ =>
      StoreTriple.bind (storeTriple_farPointer _) fun p => storeTriple_callFar slots p.1 p.2
  case int3 =>
    exact storesOnly_pushes 3 rfl rfl fun slots => storeTriple_dispatch slots (leaves_storesIn _ _)
  case into =>
    exact storesOnly_pushes 3 rfl rfl fun slots => storeTriple_hart fun _ =>
      StoreTriple.ite (fun _ => storeTriple_dispatch slots (leaves_storesIn _ _)) fun _ =>
        (StoreTriple.pure ()).post fun _ _ _ => trivial
  case pusha =>
    exact storesOnly_pushes 8 rfl rfl fun slots => storeTriple_pushAll slots
  case intImm8 n =>
    have other : isVirtualVector n = false := by simpa [Instr.wf] using wf
    exact storesOnly_pushes (m := dispatch n) 3 (congrArg perform (interrupt_eq_dispatch other)) rfl
      fun slots => storeTriple_dispatch slots (leaves_storesIn _ _)
  case enterImm16Imm8 =>
    exact storesOnly_pushes _ rfl rfl fun slots => storeTriple_enterFrame slots
  case movMoffs16Al =>
    exact storesOnly_moffs rfl (fun F => F.byteGet _) fun _ => stays_byteAt_set (.head _)
  case movMoffs16Ax =>
    exact storesOnly_moffs rfl (fun F => F.wordGet _) fun _ =>
      stays_wordAt_set fun _ inside => List.mem_append_left _ (List.mem_append_left _ inside)
  case movsb =>
    exact storesOnly_string 1 rfl fun _ =>
      (storeTriple_movs8 (target_mem_stores 1 rfl) Nat.one_pos).post fun _ _ _ => trivial
  case repnzMovsb | repMovsb =>
    exact storesOnly_repeat 1 rfl fun c _ => storeTriple_movs8 (target_mem_stores c.hart.CX.toNat rfl)
  case movsw =>
    exact storesOnly_string 2 rfl fun _ =>
      (storeTriple_movs16 (target_word_mem_stores 1 rfl) Nat.one_pos).post fun _ _ _ => trivial
  case repnzMovsw | repMovsw =>
    exact storesOnly_repeat 2 rfl fun c _ => storeTriple_movs16 (target_word_mem_stores c.hart.CX.toNat rfl)
  case stosb =>
    exact storesOnly_string 1 rfl fun _ =>
      (storeTriple_stos8 (target_mem_stores 1 rfl) Nat.one_pos).post fun _ _ _ => trivial
  case repnzStosb | repStosb =>
    exact storesOnly_repeat 1 rfl fun c _ => storeTriple_stos8 (target_mem_stores c.hart.CX.toNat rfl)
  case stosw =>
    exact storesOnly_string 2 rfl fun _ =>
      (storeTriple_stos16 (target_word_mem_stores 1 rfl) Nat.one_pos).post fun _ _ _ => trivial
  case repnzStosw | repStosw =>
    exact storesOnly_repeat 2 rfl fun c _ => storeTriple_stos16 (target_word_mem_stores c.hart.CX.toNat rfl)
  case int86 =>
    exact storesOnly_carpetBomb
  case int87 =>
    exact storesOnly_smartBomb

/-- Settles O23. -/
theorem memoryFrame : Obligations.MemoryFrame := by
  intro i s t h wf running next L elsewhere
  obtain ⟨m, performed, stores⟩ := exec_storesOnly wf
  rw [performed] at next
  obtain ⟨h', running', outcome⟩ := perform_next next
  obtain rfl : h' = h := Option.some.inj (running'.symm.trans running)
  have kept := (stores (s.cpu h')).2 L elsewhere
  obtain ⟨c, completed, rfl⟩ | ⟨f, c, faulted, rfl⟩ := outcome
  · rwa [completed] at kept
  · rwa [faulted] at kept

end Sys2Proof.Machine
end

section
/-! SUPPORT. What a denied string element leaves (R292 to R296, R439), where `k` elements move the pointers (R290, R291),
and the statement StringFaultsKill. -/

namespace Sys2Proof.Machine

variable {op : StringOp} {n k : Nat} {c e : Cpu} {f : HartFault}

/-! ### One element -/

/-- Storing bytes faults by MemoryFault(write) alone and moves no register. -/
theorem writeFault_leaves : ∀ {bs : List Byte} {a : Addr} {c : Cpu}, c.writeFault a bs = some (f, e) →
    e.hart = c.hart ∧ ∃ L, f = .memoryFault .write L
  | [], _, _, h => by cases h
  | b :: bs, a, c, h => by
    rw [Cpu.writeFault] at h
    split at h
    · exact writeFault_leaves (c := c.store8 a b) h
    · cases h; exact ⟨rfl, _, rfl⟩

/-- A denied element leaves the registers; memory too, unless it was denied at a write. -/
theorem elementFault_leaves (h : c.elementFault op n = some (f, e)) :
    e.hart = c.hart ∧ ((∀ L, f ≠ .memoryFault .write L) → e = c) := by
  have ofWrite {a bs} (hw : c.writeFault a bs = some (f, e)) :
      e.hart = c.hart ∧ ((∀ L, f ≠ .memoryFault .write L) → e = c) := by
    obtain ⟨hart, L, write⟩ := writeFault_leaves hw
    exact ⟨hart, fun other => absurd write (other L)⟩
  have ofRead {o : Option HartFault} (hr : o.map (fun f => (f, c)) = some (f, e)) :
      e.hart = c.hart ∧ ((∀ L, f ≠ .memoryFault .write L) → e = c) := by
    obtain ⟨_, _, same⟩ := Option.map_eq_some_iff.1 hr
    cases same
    exact ⟨rfl, fun _ => rfl⟩
  cases op with
  | movs =>
    rcases Option.or_eq_some_iff.1 h with read | ⟨_, write⟩
    · exact ofRead read
    · exact ofWrite write
  | stos => exact ofWrite h
  | cmps | lods | scas => exact ofRead h

/-- The registers of a string element: segments, DF and CX stay, SI and DI move by the element where they are used
(R290). -/
theorem elementLeaves_pointers (hn : n = 1 ∨ n = 2) (c : Cpu) :
    let g := (elementLeaves op n c).hart
    let d := stringStep (BitVec.ofNat 16 n) c.hart
    g.DS = c.hart.DS ∧ g.ES = c.hart.ES ∧ g.flags.DF = c.hart.flags.DF ∧ g.CX = c.hart.CX ∧
    g.SI = (if op.usesSource then c.hart.SI + d else c.hart.SI) ∧
    g.DI = (if op.usesTarget then c.hart.DI + d else c.hart.DI) := by
  rcases hn with rfl | rfl <;> cases op <;> exact ⟨rfl, rfl, rfl, rfl, rfl, rfl⟩

/-! ### The elements before -/

/-- Where `k` elements leave CX, SI and DI (R290, R291). -/
theorem repeated_pointers (hn : n = 1 ∨ n = 2) : ∀ (k : Nat) (c : Cpu),
    let g := (Cpu.repeated (elementLeaves op n) neverStop k c).hart
    g.CX = c.hart.CX - BitVec.ofNat 16 k ∧
    g.SI = (if op.usesSource then (c.hart.source n k).off else c.hart.SI) ∧
    g.DI = (if op.usesTarget then (c.hart.target n k).off else c.hart.DI)
  | 0, c => by simp [Cpu.repeated]
  | k + 1, c => by
    obtain ⟨ds, es, df, cx, si, di⟩ := elementLeaves_pointers (op := op) hn c
    let d := (elementLeaves op n c).setHart
      { (elementLeaves op n c).hart with CX := (elementLeaves op n c).hart.CX - 1 }
    obtain ⟨restCx, restSi, restDi⟩ := repeated_pointers hn k d
    refine ⟨restCx.trans ?_, restSi.trans ?_, restDi.trans ?_⟩
    · change (elementLeaves op n c).hart.CX - 1 - BitVec.ofNat 16 k = _
      rw [cx, BitVec.ofNat_add]
      bv_omega
    · cases uses : op.usesSource <;> simp only [uses, if_true, Bool.false_eq_true, if_false] at si ⊢
      · exact si
      · exact congrArg Addr.off (source_next (g := d.hart) n k ds df si)
    · cases uses : op.usesTarget <;> simp only [uses, if_true, Bool.false_eq_true, if_false] at di ⊢
      · exact di
      · exact congrArg Addr.off (target_next (g := d.hart) n k es df di)

/-! ### The instructions -/

/-- A denied element of an unrepeated string instruction. -/
theorem exec_element_fault {s : State} {h : Hart} {i : Instr} (running : s.Running h) (hn : n = 1 ∨ n = 2)
    (performed : exec i = perform (elementBody op n)) (fault : (s.cpu h).elementFault op n = some (f, e)) :
    exec i s = .next ((s.commit e).kill f) ∧ e.hart = h ∧
    ((∀ L, f ≠ .memoryFault .write L) → e = s.cpu h) := by
  have run : elementBody op n (s.cpu h) = .error f e := by rw [element_spec op n hn, fault]
  exact ⟨(congrFun performed s).trans (perform_error running run), elementFault_leaves fault⟩

/-- A denied element of a repeated string instruction, the `k` before it complete. -/
theorem exec_repeat_fault {s : State} {h : Hart} {is : List Instr} {one : Cpu → Cpu} {stop : Flags → Bool}
    (running : s.Running h) (hn : n = 1 ∨ n = 2) (leaves : one = elementLeaves op n)
    (performed : ∀ i ∈ is, exec i = perform (repeatString (elementBody op n) stop))
    (more : k < h.CX.toNat)
    (before : ∀ j, j < k → (Cpu.repeated one neverStop j (s.cpu h)).elementFault op n = none ∧
      stop (Cpu.repeated one neverStop (j + 1) (s.cpu h)).hart.flags = false)
    (fault : (Cpu.repeated one neverStop k (s.cpu h)).elementFault op n = some (f, e)) :
    (∀ i ∈ is, exec i s = .next ((s.commit e).kill f)) ∧
    e.hart = (Cpu.repeated one neverStop k (s.cpu h)).hart ∧ e.hart.CX = h.CX - BitVec.ofNat 16 k ∧
    e.hart.SI = (if op.usesSource then (h.source n k).off else h.SI) ∧
    e.hart.DI = (if op.usesTarget then (h.target n k).off else h.DI) := by
  subst leaves
  have run : repeatString (elementBody op n) stop (s.cpu h) = .error f e := by
    refine (exec_bind_ok (getHart_apply _)).trans
      (repeatLoop_fault (one := elementLeaves op n) k _ _ more (fun j hj => ?_) ?_)
    · exact ⟨by rw [element_spec op n hn, (before j hj).1], (before j hj).2⟩
    · rw [element_spec op n hn, fault]
  have hart := (elementFault_leaves fault).1
  refine ⟨fun i hi => (congrFun (performed i hi) s).trans (perform_error running run), hart, ?_⟩
  rw [hart]
  exact repeated_pointers hn k (s.cpu h)

/-- Settles O51: every row is one element's body, or that body under `repeatString`. -/
theorem stringFaultsKill : Obligations.StringFaultsKill := by
  intro s h running
  refine ⟨?_, ?_⟩
  · simp only [List.forall_mem_cons, List.not_mem_nil, false_implies, implies_true, and_true]
    refine ⟨?_, ?_, ?_, ?_, ?_, ?_, ?_, ?_, ?_, ?_⟩ <;> intro f e fault <;>
      exact exec_element_fault running (by decide) rfl fault
  · have pair {a b : Instr} {body stop} (ha : exec a = perform (repeatString body stop))
        (hb : exec b = perform (repeatString body stop)) :
        ∀ i ∈ [a, b], exec i = perform (repeatString body stop) := by
      simp only [List.forall_mem_cons, List.not_mem_nil, false_implies, implies_true, and_true]
      exact ⟨ha, hb⟩
    have single {a : Instr} {body stop} (ha : exec a = perform (repeatString body stop)) :
        ∀ i ∈ [a], exec i = perform (repeatString body stop) := List.forall_mem_singleton.2 ha
    iterate 13 rw [List.forall_mem_cons]
    rw [List.forall_mem_singleton]
    refine ⟨?_, ?_, ?_, ?_, ?_, ?_, ?_, ?_, ?_, ?_, ?_, ?_, ?_, ?_⟩ <;> intro after k more before f e fault
    case refine_1 | refine_2 | refine_7 | refine_8 | refine_9 | refine_10 =>
      exact exec_repeat_fault running (by decide) rfl (pair rfl rfl) more before fault
    all_goals exact exec_repeat_fault running (by decide) rfl (single rfl) more before fault

end Sys2Proof.Machine
end

section
/-! SUPPORT. What an instruction leaves whose operand, push or pop is denied (R75 to R77, R231, R232, R438, R439): each is
a sequence of operations, run up to the one that raises the fault; and the statement DataFaultsKill. -/

namespace Sys2Proof.Machine

variable {s : State} {h : Hart} {c e : Cpu} {i : Instr} {f : HartFault} {m : Exec Unit}

/-- An instruction of the hart whose turn it is, one of whose operations raises a fault. -/
theorem exec_fault (running : s.Running h) (performed : exec i = perform m) (fault : m (s.cpu h) = .error f e) :
    exec i s = .next ((s.commit e).kill f) :=
  (congrFun performed s).trans (perform_error running fault)

/-- The same, where nothing was done before the fault. -/
theorem exec_fault_at_once (running : s.Running h) (performed : exec i = perform m)
    (fault : m (s.cpu h) = .error f (s.cpu h)) : exec i s = .next (s.kill f) := by
  rw [exec_fault running performed fault, commit_cpu running]

/-! ### Operands -/

theorem memRead8_denied {a : Addr} (denied : allowed c.params c.hart.perm (lin c.params a) .read = false) :
    memRead8 a c = .error (.memoryFault .read (lin c.params a)) c := readByte_denied denied

theorem memWrite8_denied {a : Addr} (denied : allowed c.params c.hart.perm (lin c.params a) .write = false) (v : Byte) :
    memWrite8 a v c = .error (.memoryFault .write (lin c.params a)) c := writeByte_denied denied

/-- The same after the flags are written: they play no part in it. -/
theorem setFlags_memWrite8_denied {a : Addr} (denied : allowed c.params c.hart.perm (lin c.params a) .write = false)
    (fl : Flags) (v : Byte) :
    memWrite8 a v (c.setFlags fl) = .error (.memoryFault .write (lin c.params a)) (c.setFlags fl) :=
  writeByte_denied denied

/-- A word write whose high byte alone is denied has stored the low one (R77, R439). -/
theorem memWrite16_high_denied {a : Addr} (low : c.CanWrite8 a)
    (high : allowed c.params c.hart.perm (lin c.params (addOffset a 1)) .write = false) (v : Word) :
    memWrite16 a v c = .error (.memoryFault .write (lin c.params (addOffset a 1))) (c.store8 a (lowByte v)) :=
  (exec_bind_ok (memWrite8_ok low (lowByte v))).trans (memWrite8_denied (c := c.store8 a (lowByte v)) high _)

/-- ADD to a readable byte that may not be written has written the flags (R171, R439). -/
theorem addByte_denied {m : MemOp} (r : Reg8) (readable : c.CanRead8 (c.hart.ea m))
    (denied : allowed c.params c.hart.perm (lin c.params (c.hart.ea m)) .write = false) :
    alu .add (c.hart.operand8 (.mem m)) (byteReg r) c = .error (.memoryFault .write (lin c.params (c.hart.ea m)))
      (c.setFlags (AluOp.add.apply (c.byteAt (c.hart.ea m)) (c.hart.get8 r) c.hart.flags 0).2) := by
  refine (exec_bind_ok (operand8_get_ok (rm := .mem m) readable)).trans ?_
  refine (exec_bind_ok (byteReg_get r c)).trans ?_
  refine (exec_bind_ok (exec_pure 0 c)).trans ?_
  refine (exec_bind_ok (getHart_apply c)).trans ?_
  exact (exec_bind_ok (modFlags_apply _ c)).trans (setFlags_memWrite8_denied denied _ _)

/-! ### Pushes -/

/-- Words pushed one after another, then `rest`. -/
def pushes (vs : List Word) (rest : Exec Unit) : Exec Unit := vs.foldr (fun v m => push16 v >>= fun _ => m) rest

/-- A denied push, those before it standing (R231, R439). -/
theorem pushes_fault {rest : Exec Unit} {v : Word} {vs : List Word} {k : Nat} (at_k : vs[k]? = some v)
    (room : c.CanPush k) (fault : ((vs.take k).foldl Cpu.push c).pushFault v = some (f, e)) :
    pushes vs rest c = .error f e := by
  induction vs generalizing k c with
  | nil => simp at at_k
  | cons w vs ih =>
    cases k with
    | zero =>
      obtain rfl : w = v := by simpa using at_k
      exact exec_bind_error (push16_fault fault)
    | succ k =>
      obtain ⟨pushed, room⟩ := push_ok room w
      exact (exec_bind_ok pushed).trans (ih (by simpa using at_k) room fault)

theorem canPush_zero (c : Cpu) : c.CanPush 0 := fun _ none => absurd none (Nat.not_lt_zero _)

/-- The first of several pushes denied. -/
theorem pushes_first_fault {rest : Exec Unit} {v : Word} {vs : List Word} (fault : c.pushFault v = some (f, e)) :
    pushes (v :: vs) rest c = .error f e :=
  pushes_fault (k := 0) rfl (canPush_zero c) fault

/-- The second of several pushes denied. -/
theorem pushes_second_fault {rest : Exec Unit} {v w : Word} {vs : List Word} (room : c.CanPush 1)
    (fault : (c.push v).pushFault w = some (f, e)) : pushes (v :: w :: vs) rest c = .error f e :=
  pushes_fault (k := 1) rfl room fault

theorem pushAll_eq (c : Cpu) :
    let h := c.hart
    pushAll c = pushes [h.AX, h.CX, h.DX, h.BX, h.SP, h.BP, h.SI, h.DI] (pure ()) c := by
  simp only [pushAll, pushes, List.foldr_cons, List.foldr_nil, bind_pure_unit]
  exact exec_bind_ok (getHart_apply c)

theorem callFar_eq (o sg : Word) (c : Cpu) : callFar o sg c = pushes [c.hart.CS, c.hart.IP] (jumpFar o sg) c :=
  exec_bind_ok (getHart_apply c)

/-- An indirect far call of a readable pointer (R361). -/
theorem callFarIndirect_eq {m : MemOp} (offset : c.CanRead16 (c.hart.ea m))
    (segment : c.CanRead16 (addOffset (c.hart.ea m) 2)) :
    callFarIndirect m c = callFar (c.wordAt (c.hart.ea m)) (c.wordAt (addOffset (c.hart.ea m) 2)) c := by
  have pointer : readFarPointer (c.hart.ea m) c =
      .ok (c.wordAt (c.hart.ea m), c.wordAt (addOffset (c.hart.ea m) 2)) c :=
    (exec_bind_ok (memRead16_ok offset)).trans (exec_bind_ok (memRead16_ok segment))
  exact (exec_bind_ok (getHart_apply c)).trans (exec_bind_ok pointer)

/-- A denied push of a far call kills the hart, the one before it standing (R359, R361, R439). -/
theorem exec_callFar_fault {o sg : Word} (running : s.Running h) (performed : exec i = perform m)
    (call : m (s.cpu h) = callFar o sg (s.cpu h)) :
    let c := s.cpu h
    (∀ f e, c.pushFault h.CS = some (f, e) → exec i s = .next ((s.commit e).kill f)) ∧
    (c.CanPush 1 → ∀ f e, (c.push h.CS).pushFault h.IP = some (f, e) →
      exec i s = .next ((s.commit e).kill f)) := by
  have pushed := call.trans (callFar_eq o sg (s.cpu h))
  refine ⟨fun f e fault => ?_, fun room f e fault => ?_⟩
  · exact exec_fault running performed (pushed.trans (pushes_first_fault fault))
  · exact exec_fault running performed (pushed.trans (pushes_second_fault room fault))

/-- What the dispatch of vector `n` does after its pushes (R370). -/
def loadVector (n : Byte) : Exec Unit := do
  let o ← memRead16 (vectorAddr n)
  let s ← memRead16 (addOffset (vectorAddr n) 2)
  modHart fun h => { h with IP := o, CS := s }

/-- FLAGS pushed, IF and TF cleared (R370). -/
def Cpu.flagsPushed (c : Cpu) : Cpu :=
  (c.push c.hart.flags.toWord).setFlags { c.hart.flags with IF := false, TF := false }

theorem dispatch_first_fault (n : Byte) (fault : c.pushFault c.hart.flags.toWord = some (f, e)) :
    dispatch n c = .error f e :=
  (exec_bind_ok (getHart_apply c)).trans (exec_bind_error (push16_fault fault))

theorem dispatch_eq (n : Byte) (room : c.CanPush 1) :
    dispatch n c = pushes [c.hart.CS, c.hart.IP] (loadVector n) c.flagsPushed :=
  (exec_bind_ok (getHart_apply c)).trans <| (exec_bind_ok (push_ok room _).1).trans <|
    exec_bind_ok (modFlags_apply _ _)

/-- A denied push of the dispatch kills the hart, those before it standing (R370, R439). -/
theorem exec_dispatch_fault (running : s.Running h) (n : Byte) (performed : exec i s = perform (dispatch n) s) :
    let c := s.cpu h
    (∀ f e, c.pushFault h.flags.toWord = some (f, e) → exec i s = .next ((s.commit e).kill f)) ∧
    (c.CanPush 1 → ∀ f e, c.flagsPushed.pushFault h.CS = some (f, e) → exec i s = .next ((s.commit e).kill f)) ∧
    (c.CanPush 2 → ∀ f e, (c.flagsPushed.push h.CS).pushFault h.IP = some (f, e) →
      exec i s = .next ((s.commit e).kill f)) := by
  refine ⟨fun f e fault => ?_, fun room f e fault => ?_, fun room f e fault => ?_⟩ <;>
    refine performed.trans (perform_error running ?_)
  · exact dispatch_first_fault n fault
  · exact (dispatch_eq n room).trans (pushes_first_fault fault)
  · have first : (s.cpu h).CanPush 1 := fun k hk => room k (Nat.lt_succ_of_lt hk)
    have second : (s.cpu h).flagsPushed.CanPush 1 :=
      canPush_congr (d := (s.cpu h).push h.flags.toWord) rfl rfl rfl rfl (push_ok room _).2
    exact (dispatch_eq n first).trans (pushes_second_fault second fault)

/-- INTO with OF set dispatches vector 4 (R374). -/
theorem exec_into_overflow (running : s.Running h) (overflow : h.flags.OF = true) :
    exec .into s = perform (dispatch 4) s := by
  have runs : interruptOnOverflow (s.cpu h) = dispatch 4 (s.cpu h) :=
    (exec_bind_ok (getHart_apply _)).trans (congrFun (if_pos overflow) _)
  have turn : s.harts[s.turn]? = some h := running
  change perform interruptOnOverflow s = _
  simp only [perform, turn, runs]

/-! ### Pops -/

/-- A denied first pop changes nothing (R232, R439). -/
theorem exec_pop_fault {k : Word → Exec Unit} (running : s.Running h) (performed : exec i = perform (pop16 >>= k))
    (fault : (s.cpu h).popFault = some f) : exec i s = .next (s.kill f) :=
  exec_fault_at_once running performed (exec_bind_error (pop16_fault fault))

/-- A denied second pop of a far return or IRET leaves the popped IP (R364, R372, R439). -/
theorem exec_second_pop_fault {k : Word → Exec Unit} (running : s.Running h)
    (performed : exec i = perform do let ip ← pop16; modHart fun h => { h with IP := ip }; pop16 >>= k)
    (readable : (s.cpu h).CanPop 1)
    (fault : ((s.cpu h).setHart { h.popped 1 with IP := (s.cpu h).stackWord 0 }).popFault = some f) :
    exec i s = .next ((s.commit ((s.cpu h).setHart { h.popped 1 with IP := (s.cpu h).stackWord 0 })).kill f) := by
  refine exec_fault running performed ?_
  exact (exec_bind_ok (pop_ok readable).1).trans <| (exec_bind_ok (modHart_setHart _ _ _)).trans <|
    exec_bind_error (pop16_fault fault)

/-- A denied third pop of IRET leaves the popped IP and CS (R372, R439). -/
theorem interruptReturn_third_fault (readable : c.CanPop 2)
    (fault : (c.setHart { c.hart.popped 2 with IP := c.stackWord 0, CS := c.stackWord 1 }).popFault = some f) :
    interruptReturn c =
      .error f (c.setHart { c.hart.popped 2 with IP := c.stackWord 0, CS := c.stackWord 1 }) := by
  have first : c.CanPop 1 := fun k hk => readable k (Nat.lt_succ_of_lt hk)
  refine (exec_bind_ok (pop_ok first).1).trans <| (exec_bind_ok (modHart_setHart _ _ _)).trans ?_
  let afterIp := { c.hart.popped 1 with IP := c.stackWord 0 }
  refine (exec_bind_ok (pop_slot (g := afterIp) rfl rfl rfl (readable 1 Nat.one_lt_two))).trans ?_
  exact (exec_bind_ok (modHart_setHart _ _ _)).trans (exec_bind_error (pop16_fault fault))

/-- LEAVE whose word may not be read has moved SP to BP (R245, R439). -/
theorem leaveFrame_fault (fault : (c.setHart { c.hart with SP := c.hart.BP }).popFault = some f) :
    leaveFrame c = .error f (c.setHart { c.hart with SP := c.hart.BP }) :=
  (exec_bind_ok (modHart_apply _ c)).trans (exec_bind_error (pop16_fault fault))

/-- POP to memory that may not be written has moved SP (R240, R439). -/
theorem popOperand_mem_fault {m : MemOp} (readable : c.CanPop 1)
    (fault : (c.setHart (c.hart.popped 1)).writeFault (c.hart.ea m)
      [lowByte (c.stackWord 0), highByte (c.stackWord 0)] = some (f, e)) :
    withRm16 (.mem m) popOperand c = .error f e := by
  rw [withRm16_apply]
  have written := memWrite16_spec (c.hart.ea m) (c.stackWord 0) (c.setHart (c.hart.popped 1))
  rw [fault] at written
  exact (exec_bind_ok (pop_ok readable).1).trans written

/-! ### The statement -/

/-- Settles O50: each clause runs an instruction up to the access that is denied. -/
theorem dataFaultsKill : Obligations.DataFaultsKill := by
  intro s h running
  dsimp only
  refine ⟨fun m => ⟨fun denied => ⟨fun r => ?_, ?_⟩, fun denied => ⟨fun r => ?_, fun readable r => ?_⟩,
    fun low high r => ?_⟩, ?_, fun rm readable => ⟨fun f e fault => ?_, fun f e fault => ?_⟩,
    fun k v at_k room f e fault => ?_, ?_, ?_, ?_, fun f fault => ?_,
    fun readable => ⟨fun m f e fault => ?_, fun n => ?_⟩, fun readable f fault => ?_⟩
  · exact exec_fault_at_once running (m := withRm8 (.mem m) fun d => move (byteReg r) d) rfl
      ((withRm8_apply _ _ _).trans (exec_bind_error (memRead8_denied denied)))
  · exact exec_fault_at_once running (m := withRm8 (.mem m) divByte) rfl
      ((withRm8_apply _ _ _).trans (exec_bind_error (memRead8_denied denied)))
  · exact exec_fault_at_once running (m := withRm8 (.mem m) fun d => move d (byteReg r)) rfl
      ((withRm8_apply _ _ _).trans ((exec_bind_ok (byteReg_get r _)).trans (memWrite8_denied denied _)))
  · exact exec_fault running (m := withRm8 (.mem m) fun d => alu .add d (byteReg r)) rfl
      ((withRm8_apply _ _ _).trans (addByte_denied r readable denied))
  · exact exec_fault running (m := withRm16 (.mem m) fun d => move d (wordReg r)) rfl
      ((withRm16_apply _ _ _).trans ((exec_bind_ok (wordReg_get r _)).trans (memWrite16_high_denied low high _)))
  · intro r imm rel size b level
    simp only [List.forall_mem_cons, List.not_mem_nil, false_implies, implies_true, and_true]
    refine ⟨?_, ?_, ?_, ?_, ?_, ?_, ?_, ?_, ?_, ?_, ?_⟩ <;> intro f e fault
    case refine_9 => exact exec_fault running (m := pushAll) rfl ((pushAll_eq _).trans (pushes_first_fault fault))
    case refine_10 =>
      exact exec_fault running (m := enterFrame size level) rfl
        ((exec_bind_ok (getHart_apply _)).trans (exec_bind_error (push16_fault fault)))
    case refine_11 =>
      exact exec_fault running (m := callBy rel) rfl
        ((exec_bind_ok (getHart_apply _)).trans (exec_bind_error (push16_fault fault)))
    all_goals exact exec_fault running rfl (push16_fault fault)
  · exact exec_fault running (m := withRm16 rm pushOperand) rfl
      ((withRm16_apply _ _ _).trans ((exec_bind_ok (operand16_get_ok readable)).trans (push16_fault fault)))
  · exact exec_fault running (m := withRm16 rm callIndirect) rfl
      ((withRm16_apply _ _ _).trans ((exec_bind_ok (operand16_get_ok readable)).trans
        ((exec_bind_ok (getHart_apply _)).trans (exec_bind_error (push16_fault fault)))))
  · exact exec_fault running (m := pushAll) rfl ((pushAll_eq _).trans (pushes_fault at_k room fault))
  · rintro i (⟨o, sg, rfl⟩ | ⟨m, offset, segment, rfl⟩)
    · exact exec_callFar_fault running (m := callFar o sg) rfl rfl
    · exact exec_callFar_fault running (m := callFarIndirect m) rfl (callFarIndirect_eq offset segment)
  · rintro i (⟨n, other, rfl⟩ | rfl | ⟨overflow, rfl⟩)
    · exact exec_dispatch_fault running n (congrFun (congrArg perform (interrupt_eq_dispatch other)) s)
    · exact exec_dispatch_fault running 3 rfl
    · exact exec_dispatch_fault running 4 (exec_into_overflow running overflow)
  · intro r rm n
    simp only [List.forall_mem_cons, List.not_mem_nil, false_implies, implies_true, and_true]
    refine ⟨?_, ?_, ?_, ?_, ?_, ?_, ?_, ?_, ?_, ?_, ?_, ?_⟩ <;> intro f fault
    case refine_2 =>
      exact exec_fault_at_once running (m := withRm16 rm popOperand) rfl
        ((withRm16_apply _ _ _).trans (exec_bind_error (pop16_fault fault)))
    all_goals exact exec_pop_fault running rfl fault
  · exact exec_fault running (m := leaveFrame) rfl (leaveFrame_fault fault)
  · exact exec_fault running (m := withRm16 (.mem m) popOperand) rfl (popOperand_mem_fault readable fault)
  · simp only [List.forall_mem_cons, List.not_mem_nil, false_implies, implies_true, and_true]
    refine ⟨?_, ?_, ?_⟩ <;> intro f fault <;> exact exec_second_pop_fault running rfl readable fault
  · exact exec_fault running (m := interruptReturn) rfl (interruptReturn_third_fault readable fault)

end Sys2Proof.Machine
end

section
/-! SUPPORT. The statements about the encoding (30_encoding.md): decode and encode are inverse, every window of six bytes
begins an instruction (R110, R111), and a step runs what its fetched bytes decode to (R451). -/

namespace Sys2Proof

/-- Settles O1, by the lemma of each instruction's operand form. -/
theorem decodeEncode : Obligations.DecodeEncode :=
  fun _ rest wf => decode_encode wf rest

/-- Settles O2, by what each row of the opcode map reads. -/
theorem decodeIsEncoding : Obligations.DecodeIsEncoding := by
  obtain ⟨reads_encoding, six_suffice⟩ := readsOnly_decode
  intro bs
  refine ⟨reads_encoding bs, fun enough => ?_⟩
  obtain ⟨⟨i, rest⟩, decoded⟩ := six_suffice bs enough
  exact ⟨i, rest, decoded⟩

end Sys2Proof

namespace Sys2Proof.Machine

/-- A fetch gives the instruction its window decodes to, as long as the bytes the decoder took (R111). -/
theorem fetchInstr_decoded {p : Config.Params} {h : Hart} {m : Memory} {i : Instr} {rest : List Byte}
    (decoded : decode (fetchBytes p h.perm m h.CS Config.maxInstrBytes h.IP) = .ok (i, rest)) :
    fetchInstr p h m =
      .instruction i ((fetchBytes p h.perm m h.CS Config.maxInstrBytes h.IP).length - rest.length) := by
  simp only [fetchInstr, decoded]

/-- Settles O4: the slot of a living hart is one instruction, and the fetch gives that instruction. -/
theorem stepRunsDecoded : Obligations.StepRunsDecoded := by
  intro s h i rest going inRound running alive _ decoded
  rw [step_slot going inRound running alive, State.runInstr, fetchInstr_decoded decoded]

end Sys2Proof.Machine
end

section
/-! SUPPORT. The two-operand ALU family (R170, R171, R180 to R182): every row is the family's one operation `alu` on its
two operands, and so leaves what `Cpu.alu8` and `Cpu.alu16` say; and the statements AluByteForms and AluWordForms. -/

namespace Sys2Proof.Machine

/-- An instruction of the hart whose turn it is, all of whose operations go on. -/
theorem exec_completes {s : State} {h : Hart} {i : Instr} {m : Exec Unit} {c : Cpu} (running : s.Running h)
    (performed : exec i = perform m) (run : m (s.cpu h) = .ok () c) : exec i s = .next (s.commit c) :=
  (congrFun performed s).trans (perform_ok running run)

/-- Settles O25: a form is `alu` on its destination and source, the same for each row of the form. -/
theorem aluByteForms : Obligations.AluByteForms := by
  intro s h running
  refine ⟨fun p row rm r readable writable => ?ebGb, fun p row r rm readable => ?gbEb, fun p row imm => ?alImm,
    fun p row rm imm readable writable => ?ebImm⟩
  case ebGb =>
    have performed : exec (p.2 rm r) = perform (withRm8 rm fun d => alu p.1 d (byteReg r)) := by fin_cases row <;> rfl
    exact exec_completes running performed (alu8_ok readable writable (byteReg_get r _))
  case gbEb =>
    have performed : exec (p.2 r rm) = perform (withRm8 rm fun e => alu p.1 (byteReg r) e) := by fin_cases row <;> rfl
    exact exec_completes running performed
      (alu8_ok (rm := .reg r) trivial (fun _ => trivial) (operand8_get_ok readable))
  case alImm =>
    have performed : exec (p.2 imm) = perform (alu p.1 (byteReg .AL) (immediate imm)) := by fin_cases row <;> rfl
    exact exec_completes running performed
      (alu8_ok (rm := .reg .AL) trivial (fun _ => trivial) (immediate_get imm _))
  case ebImm =>
    have performed : exec (p.2 rm imm) = perform (withRm8 rm fun d => alu p.1 d (immediate imm)) := by
      fin_cases row <;> rfl
    exact exec_completes running performed (alu8_ok readable writable (immediate_get imm _))

/-- Settles O26: as for the byte forms; the source of the 0x83 forms is their byte sign-extended (R181). -/
theorem aluWordForms : Obligations.AluWordForms := by
  intro s h running
  refine ⟨fun p row rm r readable writable => ?ewGw, fun p row r rm readable => ?gwEw, fun p row imm => ?axImm,
    fun p row rm imm readable writable => ?ewImm, fun p row rm imm readable writable => ?ewSimm⟩
  case ewGw =>
    have performed : exec (p.2 rm r) = perform (withRm16 rm fun d => alu p.1 d (wordReg r)) := by fin_cases row <;> rfl
    exact exec_completes running performed (alu16_ok readable writable (wordReg_get r _))
  case gwEw =>
    have performed : exec (p.2 r rm) = perform (withRm16 rm fun e => alu p.1 (wordReg r) e) := by fin_cases row <;> rfl
    exact exec_completes running performed
      (alu16_ok (rm := .reg r) trivial (fun _ => trivial) (operand16_get_ok readable))
  case axImm =>
    have performed : exec (p.2 imm) = perform (alu p.1 (wordReg .AX) (immediate imm)) := by fin_cases row <;> rfl
    exact exec_completes running performed
      (alu16_ok (rm := .reg .AX) trivial (fun _ => trivial) (immediate_get imm _))
  case ewImm =>
    have performed : exec (p.2 rm imm) = perform (withRm16 rm fun d => alu p.1 d (immediate imm)) := by
      fin_cases row <;> rfl
    exact exec_completes running performed (alu16_ok readable writable (immediate_get imm _))
  case ewSimm =>
    have performed : exec (p.2 rm imm) = perform (withRm16 rm fun d => alu p.1 d (immediate (sext8 imm))) := by
      fin_cases row <;> rfl
    exact exec_completes running performed (alu16_ok readable writable (immediate_get (sext8 imm) _))

end Sys2Proof.Machine
end

section
/-! SUPPORT. Data movement (41_mov_data.md): a MOV reads its source and assigns its destination, an exchange reads both
operands before it assigns either; and the statements Moves and ExchangesAndPointers. -/

namespace Sys2Proof.Machine

variable {s : State} {h : Hart} {c d e : Cpu} {i : Instr}

/-! ### Shared operations -/

/-- An instruction of the hart whose turn it is that only assigns registers. -/
theorem exec_modHart (f : Hart → Hart) (running : s.Running h) (performed : exec i = perform (modHart f)) :
    exec i s = .next (s.commit ((s.cpu h).setHart (f h))) :=
  exec_completes running performed (modHart_apply f _)

/-- The absolute forms address DS (R205). -/
theorem atMoffs16_apply (o : Word) (k : Addr → Exec Unit) (c : Cpu) : atMoffs16 o k c = k ⟨c.hart.DS, o⟩ c :=
  exec_bind_ok (getHart_apply c)

/-- An `Eb` operand resolved by the registers as they are may be assigned where it is writable (R120). -/
theorem operand8_assign_ok {rm : Rm8} (writable : c.Writable8 rm) (v : Byte) :
    (c.hart.operand8 rm).set v c = .ok () (c.writeRm8 rm v) :=
  operand8_set_ok writable rfl rfl (fun _ => rfl) v

/-- An `Ew` operand resolved by the registers as they are may be assigned where it is writable (R120). -/
theorem operand16_assign_ok {rm : Rm16} (writable : c.Writable16 rm) (v : Word) :
    (c.hart.operand16 rm).set v c = .ok () (c.writeRm16 rm v) :=
  operand16_set_ok writable rfl rfl (fun _ => rfl) v

/-- A move whose source is read without effect leaves what the assignment leaves (R201 to R205). -/
theorem move_ok {n : Nat} {dst src : Operand n} {v : BitVec n} (get : src.get c = .ok v c)
    (set : dst.set v c = .ok () d) : move dst src c = .ok () d :=
  (exec_bind_ok get).trans set

/-- Both values are read before either is assigned, the register last (R208, R209). -/
theorem exchange_ok {n : Nat} {reg rm : Operand n} {t v : BitVec n} (getRm : rm.get c = .ok t c)
    (getReg : reg.get c = .ok v c) (setRm : rm.set v c = .ok () d) (setReg : reg.set t d = .ok () e) :
    exchange reg rm c = .ok () e :=
  (exec_bind_ok getRm).trans <| (exec_bind_ok getReg).trans <| (exec_bind_ok setRm).trans setReg

/-- A segment register stored (R206). -/
theorem storeSreg_ok {rm : Rm16} (writable : c.Writable16 rm) (sr : BitVec 3) :
    storeSreg (c.hart.operand16 rm) sr c = .ok () (c.writeRm16 rm (c.hart.getSreg (sregOfIndex sr))) :=
  (exec_bind_ok (getHart_apply c)).trans (operand16_assign_ok writable _)

/-- A segment register loaded (R207). -/
theorem loadSreg_ok {rm : Rm16} (readable : c.Readable16 rm) (sr : BitVec 3) :
    loadSreg sr (c.hart.operand16 rm) c =
      .ok () (c.setHart (c.hart.setSreg (sregOfIndex sr) (c.readRm16 rm))) :=
  (exec_bind_ok (operand16_get_ok readable)).trans (modHart_apply _ c)

/-- A far pointer is read where both its words may be (R352). -/
theorem readFarPointer_ok {a : Addr} (offset : c.CanRead16 a) (segment : c.CanRead16 (addOffset a 2)) :
    readFarPointer a c = .ok (c.wordAt a, c.wordAt (addOffset a 2)) c :=
  (exec_bind_ok (memRead16_ok offset)).trans (exec_bind_ok (memRead16_ok segment))

/-- LES and LDS: both words are read before either register is written (R213, R214). -/
theorem loadFarPointer_ok {m : MemOp} (offset : c.CanRead16 (c.hart.ea m))
    (segment : c.CanRead16 (addOffset (c.hart.ea m) 2)) (r : Reg16) (sr : Sreg) :
    loadFarPointer r sr m c = .ok () (c.setHart
      ((c.hart.set16 r (c.wordAt (c.hart.ea m))).setSreg sr (c.wordAt (addOffset (c.hart.ea m) 2)))) :=
  (exec_bind_ok (getHart_apply c)).trans <|
    (exec_bind_ok (readFarPointer_ok offset segment)).trans (modHart_apply _ c)

/-- XLAT (R211). -/
theorem translate_ok (readable : c.CanRead8 ⟨c.hart.DS, c.hart.BX + zext8 (c.hart.get8 .AL)⟩) :
    translate c = .ok () (c.setHart (c.hart.set8 .AL
      (c.byteAt ⟨c.hart.DS, c.hart.BX + zext8 (c.hart.get8 .AL)⟩))) :=
  (exec_bind_ok (getHart_apply c)).trans <| (exec_bind_ok (memRead8_ok readable)).trans (modHart_apply _ c)

/-- The upper word of a sign-extended word is sixteen copies of its sign (R11, R215). -/
theorem upperWord_signExtend (w : Word) :
    (w.signExtend 32).extractLsb' 16 16 = if w.msb then 0xFFFF else 0 := by
  rw [BitVec.signExtend_eq_append_of_le (by decide)]
  simp only [BitVec.extractLsb'_cast]
  refine BitVec.extractLsb'_append_eq_left.trans ?_
  cases w.msb <;> rfl

/-- The table of segment registers repeats after four indices (R31). -/
theorem sregOfIndex_eq (sr : BitVec 3) :
    sregOfIndex sr = if sr = 0 ∨ sr = 4 then .ES else if sr = 1 ∨ sr = 5 then .CS
      else if sr = 2 ∨ sr = 6 then .SS else .DS := by
  revert sr; decide

/-! ### The statements -/

/-- Settles O32: each row but those of the segment registers is `move` on its two operands. -/
theorem moves : Obligations.Moves := by
  intro s h running
  refine ⟨fun rm r writable => ?ebGb, fun rm r writable => ?ewGw, fun r rm readable => ?gbEb,
    fun r rm readable => ?gwEw, fun r imm => ?reg8Imm8, fun r imm => ?reg16Imm16, fun rm imm writable => ?ebImm8,
    fun rm imm writable => ?ewImm16, fun o readable => ?alMoffs16, fun o readable => ?axMoffs16,
    fun o writable => ?moffs16Al, fun o writable => ?moffs16Ax, fun rm sr writable => ?ewSw,
    fun sr rm readable => ?swEw, sregOfIndex_eq⟩
  case ebGb => exact exec_completes running rfl (move_ok (byteReg_get r _) (operand8_assign_ok writable _))
  case ewGw => exact exec_completes running rfl (move_ok (wordReg_get r _) (operand16_assign_ok writable _))
  case gbEb => exact exec_completes running rfl (move_ok (operand8_get_ok readable) (byteReg_set r _ _))
  case gwEw => exact exec_completes running rfl (move_ok (operand16_get_ok readable) (wordReg_set r _ _))
  case reg8Imm8 => exact exec_completes running rfl (move_ok (immediate_get imm _) (byteReg_set r _ _))
  case reg16Imm16 => exact exec_completes running rfl (move_ok (immediate_get imm _) (wordReg_set r _ _))
  case ebImm8 => exact exec_completes running rfl (move_ok (immediate_get imm _) (operand8_assign_ok writable _))
  case ewImm16 => exact exec_completes running rfl (move_ok (immediate_get imm _) (operand16_assign_ok writable _))
  case alMoffs16 =>
    exact exec_completes running rfl
      ((atMoffs16_apply o _ _).trans (move_ok (memRead8_ok readable) (byteReg_set .AL _ _)))
  case axMoffs16 =>
    exact exec_completes running rfl
      ((atMoffs16_apply o _ _).trans (move_ok (memRead16_ok readable) (wordReg_set .AX _ _)))
  case moffs16Al =>
    exact exec_completes running rfl
      ((atMoffs16_apply o _ _).trans (move_ok (byteReg_get .AL _) (memWrite8_ok writable _)))
  case moffs16Ax =>
    exact exec_completes running rfl
      ((atMoffs16_apply o _ _).trans (move_ok (wordReg_get .AX _) (memWrite16_ok writable _)))
  case ewSw => exact exec_completes running rfl (storeSreg_ok writable sr)
  case swEw => exact exec_completes running rfl (loadSreg_ok readable sr)

/-- Settles O33: the exchanges by `exchange`, the far pointers by `loadFarPointer`; LEA, CBW and CWD assign one register
and read no memory. -/
theorem exchangesAndPointers : Obligations.ExchangesAndPointers := by
  intro s h running
  refine ⟨fun r rm readable writable => ?xchgGbEb, fun r rm readable writable => ?xchgGwEw, fun r => ?xchgAx, ?nop,
    fun r m => ?lea, fun readable => ?xlat, ?cbw, ?cwd, fun r m offset segment => ⟨?les, ?lds⟩⟩
  case xchgGbEb =>
    exact exec_completes running rfl (exchange_ok (operand8_get_ok readable) (byteReg_get r _)
      (operand8_assign_ok writable _) (byteReg_set r _ _))
  case xchgGwEw =>
    exact exec_completes running rfl (exchange_ok (operand16_get_ok readable) (wordReg_get r _)
      (operand16_assign_ok writable _) (wordReg_set r _ _))
  case xchgAx =>
    exact exec_completes running rfl (exchange_ok (wordReg_get .AX _) (wordReg_get r _) (wordReg_set .AX _ _)
      (wordReg_set r _ _))
  case nop => exact (exec_completes running rfl (exec_pure () _)).trans (by rw [commit_cpu running])
  case lea => exact exec_modHart (fun g => g.set16 r (g.ea m).off) running rfl
  case xlat => exact exec_completes running rfl (translate_ok readable)
  case cbw => exact exec_modHart (fun g => { g with AX := sext8 (g.get8 .AL) }) running rfl
  case cwd =>
    rw [upperWord_signExtend]
    exact exec_modHart (fun g => { g with DX := if g.AX.msb then 0xFFFF else 0 }) running rfl
  case les => exact exec_completes running rfl (loadFarPointer_ok offset segment r .ES)
  case lds => exact exec_completes running rfl (loadFarPointer_ok offset segment r .DS)

end Sys2Proof.Machine
end

section
/-! SUPPORT. The forms of one operand (R233, R234, R312, R313): what `ADD_n` and `SUB_n` give by 1 and from 0; and the
statement OneOperandForms. -/

namespace Sys2Proof.Machine

theorem addN_one_result {n : Nat} (a : BitVec n) : (addN a 1 false).result = a + 1 :=
  (addN_result a 1 false).trans (BitVec.add_zero _)

/-- Without a borrow `SUB_n` gives the difference (R16). -/
theorem subN_result_no_borrow {n : Nat} (a b : BitVec n) : (subN a b false).result = a - b :=
  (subN_result a b false).trans (BitVec.sub_zero _)

/-- Settles O28: the meanings write the results of `ADD_n` and `SUB_n`; the one-byte forms are those of a register
operand. -/
theorem oneOperandForms : Obligations.OneOperandForms := by
  intro s h running
  refine ⟨fun rm readable writable => ⟨?incEb, ?decEb, ?notEb, ?negEb⟩,
    fun rm readable writable => ⟨?incEw, ?decEw, ?notEw, ?negEw⟩, fun r => ⟨?incReg, ?decReg⟩⟩
  case incEb =>
    rw [← addN_one_result]
    exact exec_completes running rfl (increment8_ok readable writable)
  case decEb =>
    rw [← subN_result_no_borrow]
    exact exec_completes running rfl (decrement8_ok readable writable)
  case notEb => exact exec_completes running rfl (complement8_ok readable writable)
  case negEb =>
    rw [← subN_result_no_borrow]
    exact exec_completes running rfl (negate8_ok readable writable)
  case incEw =>
    rw [← addN_one_result]
    exact exec_completes running rfl (increment16_ok readable writable)
  case decEw =>
    rw [← subN_result_no_borrow]
    exact exec_completes running rfl (decrement16_ok readable writable)
  case notEw => exact exec_completes running rfl (complement16_ok readable writable)
  case negEw =>
    rw [← subN_result_no_borrow]
    exact exec_completes running rfl (negate16_ok readable writable)
  case incReg =>
    rw [← addN_one_result]
    exact exec_completes running rfl (increment16_ok (rm := .reg r) trivial trivial)
  case decReg =>
    rw [← subN_result_no_borrow]
    exact exec_completes running rfl (decrement16_ok (rm := .reg r) trivial trivial)

end Sys2Proof.Machine
end

section
/-! SUPPORT. The stack instructions (42_incdec_stack.md, R390, R391): what a push of an operand, a pop, several pushes
and the display copies of ENTER leave where nothing is denied; and the statements PushesAndPops, PushAllPopAll and
EnterAndLeave. -/

namespace Sys2Proof.Machine

variable {c d : Cpu}

/-! ### One push, one pop -/

theorem push_one_ok (room : c.CanPush 1) (v : Word) : push16 v c = .ok () (c.push v) := (push_ok room v).1

/-- A pushed operand is read before SP moves (R235, R239, R241). -/
theorem pushOperand_ok {src : Operand 16} {v : Word} (room : c.CanPush 1) (get : src.get c = .ok v c) :
    pushOperand src c = .ok () (c.push v) :=
  (exec_bind_ok get).trans (push_one_ok room v)

theorem pushSreg_ok (room : c.CanPush 1) (r : Sreg) : pushSreg r c = .ok () (c.push (c.hart.getSreg r)) :=
  (exec_bind_ok (getHart_apply c)).trans (push_one_ok room _)

theorem pushFlags_ok (room : c.CanPush 1) : pushFlags c = .ok () (c.push c.hart.flags.toWord) :=
  (exec_bind_ok (getHart_apply c)).trans (push_one_ok room _)

/-- What follows a pop works on the popped word after SP moved (R232). -/
theorem pop_then_ok {k : Word → Exec Unit} (readable : c.CanPop 1)
    (run : k (c.stackWord 0) (c.setHart (c.hart.popped 1)) = .ok () d) : (pop16 >>= k) c = .ok () d :=
  (exec_bind_ok (pop_ok readable).1).trans run

/-- SP plays no part in an effective address. -/
theorem ea_popped (h : Hart) (n : Nat) (m : MemOp) : (h.popped n).ea m = h.ea m := by
  cases m with
  | absolute _ => rfl
  | plain b | disp8 b _ | disp16 b _ => cases b <;> rfl

/-- POP Ew assigns the operand its registers named before the pop (R240). -/
theorem popOperand_ok {rm : Rm16} (readable : c.CanPop 1) (writable : c.Writable16 rm) :
    popOperand (c.hart.operand16 rm) c =
      .ok () ((c.setHart (c.hart.popped 1)).writeRm16 rm (c.stackWord 0)) :=
  pop_then_ok readable (operand16_set_ok (c := c.setHart (c.hart.popped 1)) writable rfl rfl (ea_popped c.hart 1) _)

/-- Settles O29: a form of PUSH differs from the others in the value it reads, a form of POP in what it does with the
word. -/
theorem pushesAndPops : Obligations.PushesAndPops := by
  intro s h running
  refine ⟨fun room => ⟨fun r => ?pushReg, fun imm => ?pushImm, fun imm => ?pushSimm, fun rm readable => ?pushEw,
      ?pushEs, ?pushCs, ?pushSs, ?pushDs, ?pushf⟩,
    fun readable => ⟨fun r => ?popReg, fun rm writable => ?popEw, ?popEs, ?popSs, ?popDs, ?popf⟩⟩
  case pushReg => exact exec_completes running rfl (pushOperand_ok room (wordReg_get r _))
  case pushImm => exact exec_completes running rfl (pushOperand_ok room (immediate_get imm _))
  case pushSimm => exact exec_completes running rfl (pushOperand_ok room (immediate_get (sext8 imm) _))
  case pushEw => exact exec_completes running rfl (pushOperand_ok room (operand16_get_ok readable))
  case pushEs => exact exec_completes running rfl (pushSreg_ok room .ES)
  case pushCs => exact exec_completes running rfl (pushSreg_ok room .CS)
  case pushSs => exact exec_completes running rfl (pushSreg_ok room .SS)
  case pushDs => exact exec_completes running rfl (pushSreg_ok room .DS)
  case pushf => exact exec_completes running rfl (pushFlags_ok room)
  case popReg => exact exec_completes running rfl (pop_then_ok readable (wordReg_set r _ _))
  case popEw => exact exec_completes running rfl (popOperand_ok readable writable)
  case popEs => exact exec_completes running rfl (pop_then_ok readable (modHart_apply (·.setSreg .ES _) _))
  case popSs => exact exec_completes running rfl (pop_then_ok readable (modHart_apply (·.setSreg .SS _) _))
  case popDs => exact exec_completes running rfl (pop_then_ok readable (modHart_apply (·.setSreg .DS _) _))
  case popf => exact exec_completes running rfl (pop_then_ok readable (modFlags_apply (fun _ => Flags.ofWord _) _))

/-! ### PUSHA and POPA -/

/-- Words pushed where all their slots may be written. -/
theorem pushes_ok {rest : Exec Unit} {vs : List Word} (room : c.CanPush vs.length) :
    pushes vs rest c = rest (vs.foldl Cpu.push c) := by
  induction vs generalizing c with
  | nil => rfl
  | cons v vs ih =>
    obtain ⟨pushed, room⟩ := push_ok room v
    exact (exec_bind_ok pushed).trans (ih room)

/-- The pop of slot `k` into a register: `g` is what the pops before it left of the registers. -/
theorem pop_into {g : Hart} {k : Nat} (into : Word → Hart → Hart) {rest : Exec Unit} (perm : g.perm = c.hart.perm)
    (ss : g.SS = c.hart.SS) (sp : g.SP = c.hart.SP + BitVec.ofNat 16 (2 * k))
    (readable : c.CanRead16 (c.hart.popSlot k)) :
    (do let v ← pop16; modHart (into v); rest) (c.setHart g) =
      rest (c.setHart (into (c.stackWord k) { g with SP := c.hart.SP + BitVec.ofNat 16 (2 * (k + 1)) })) :=
  (exec_bind_ok (pop_slot perm ss sp readable)).trans (exec_bind_ok (modHart_setHart _ _ _))

/-- POPA reads every slot but that of the saved SP (R243). -/
theorem popAll_ok (readable : ∀ k, k < 8 → k ≠ 3 → c.CanRead16 (c.hart.popSlot k)) :
    popAll c = .ok () (c.setHart { c.hart with
      DI := c.stackWord 0, SI := c.stackWord 1, BP := c.stackWord 2, BX := c.stackWord 4, DX := c.stackWord 5,
      CX := c.stackWord 6, AX := c.stackWord 7, SP := c.hart.SP + 16 }) := by
  have slot (k : Nat) (inside : k < 8 ∧ k ≠ 3) : c.CanRead16 (c.hart.popSlot k) := readable k inside.1 inside.2
  have skip : c.hart.SP + BitVec.ofNat 16 (2 * 3) + 2 = c.hart.SP + BitVec.ofNat 16 (2 * 4) := BitVec.add_assoc _ _ _
  refine Eq.trans (pop_into (fun v g => { g with DI := v }) rfl rfl (BitVec.add_zero _).symm (slot 0 (by decide))) ?_
  refine Eq.trans (pop_into (fun v g => { g with SI := v }) rfl rfl rfl (slot 1 (by decide))) ?_
  refine Eq.trans (pop_into (fun v g => { g with BP := v }) rfl rfl rfl (slot 2 (by decide))) ?_
  refine Eq.trans (exec_bind_ok (modHart_setHart _ _ _)) ?_
  refine Eq.trans (pop_into (fun v g => { g with BX := v }) rfl rfl skip (slot 4 (by decide))) ?_
  refine Eq.trans (pop_into (fun v g => { g with DX := v }) rfl rfl rfl (slot 5 (by decide))) ?_
  refine Eq.trans (pop_into (fun v g => { g with CX := v }) rfl rfl rfl (slot 6 (by decide))) ?_
  exact Eq.trans (exec_bind_ok (pop_slot rfl rfl rfl (slot 7 (by decide)))) (modHart_setHart _ _ _)

/-- Settles O30. -/
theorem pushAllPopAll : Obligations.PushAllPopAll := by
  intro s h running
  refine ⟨fun room => ?pusha, fun readable => ?popa⟩
  case pusha => exact exec_completes running (m := pushAll) rfl ((pushAll_eq _).trans (pushes_ok room))
  case popa => exact exec_completes running rfl (popAll_ok readable)

/-! ### ENTER and LEAVE -/

/-- The word of the display that the `k`th copy of ENTER to come reads: two bytes lower each (R244). -/
def Hart.displaySlot (h : Hart) (k : Nat) : Addr := ⟨h.SS, h.BP - BitVec.ofNat 16 (2 * (k + 1))⟩

/-- The display still to come, after one copy moved BP: it lies below BP as the slots of pushes lie below SP. -/
theorem displaySlot_next (h : Hart) (k : Nat) : { h with BP := h.BP - 2 }.displaySlot k = h.displaySlot (k + 1) :=
  pushSlot_push { h with SP := h.BP } k

/-- The display copies of ENTER, with `n` pushes to come after them (R244). -/
theorem enterCopies_ok {n : Nat} : ∀ (k : Nat) {c : Cpu}, c.CanPush (k + n) →
    (∀ j, j < k → c.CanRead16 (c.hart.displaySlot j)) →
    enterCopies k c = .ok () (Cpu.enterCopied k c) ∧ (Cpu.enterCopied k c).CanPush n
  | 0, _, room, _ => ⟨rfl, fun j more => room j (by omega)⟩
  | k + 1, c, room, display => by
    let d := c.setHart { c.hart with BP := c.hart.BP - 2 }
    have room_d : d.CanPush (k + n + 1) := canPush_congr (d := c) rfl rfl rfl rfl (by rwa [Nat.add_right_comm] at room)
    have read : memRead16 ⟨d.hart.SS, d.hart.BP⟩ d = .ok (d.wordAt ⟨d.hart.SS, d.hart.BP⟩) d :=
      memRead16_ok (canRead16_perm (d := c) rfl rfl (display 0 k.succ_pos))
    obtain ⟨pushed, room_rest⟩ := push_ok room_d (d.wordAt ⟨d.hart.SS, d.hart.BP⟩)
    obtain ⟨copied, room_after⟩ := enterCopies_ok k room_rest fun j more => by
      have next := display (j + 1) (Nat.succ_lt_succ more)
      rw [← displaySlot_next] at next
      exact canRead16_perm (d := c) rfl rfl next
    refine ⟨?_, room_after⟩
    calc enterCopies (k + 1) c
        = (do let v ← memRead16 ⟨d.hart.SS, d.hart.BP⟩; push16 v; enterCopies k) d :=
          (exec_bind_ok (modHart_apply _ c)).trans (exec_bind_ok (getHart_apply d))
      _ = enterCopies k (d.push (d.wordAt ⟨d.hart.SS, d.hart.BP⟩)) :=
          (exec_bind_ok read).trans (exec_bind_ok pushed)
      _ = .ok () (Cpu.enterCopied (k + 1) c) := copied

/-- What ENTER pushes beside the old BP: nothing at level 0, else the display and the frame pointer (R244). -/
def Cpu.displayed (c : Cpu) (frame : Word) : (level : Nat) → Cpu
  | 0 => c
  | k + 1 => (Cpu.enterCopied k c).push frame

theorem enterDisplay_ok (frame : Word) {level : Nat} (room : c.CanPush level)
    (display : ∀ j, j + 1 < level → c.CanRead16 (c.hart.displaySlot j)) :
    enterDisplay frame level c = .ok () (c.displayed frame level) := by
  cases level with
  | zero => rfl
  | succ k =>
    obtain ⟨copied, room⟩ := enterCopies_ok k room fun j more => display j (Nat.succ_lt_succ more)
    exact (exec_bind_ok copied).trans (push_one_ok room frame)

theorem entered_eq (c : Cpu) (size : Word) (level : Byte) :
    let d := c.push c.hart.BP
    let e := d.displayed d.hart.SP (level.toNat % 32)
    c.entered size level = e.setHart { e.hart with BP := d.hart.SP, SP := e.hart.SP - size } := by
  cases depth : level.toNat % 32 <;> simp only [Cpu.entered, depth, Cpu.displayed]

/-- ENTER at every level: the old BP, the display, then BP and SP (R244). -/
theorem enterFrame_ok {size : Word} {level : Byte} (room : c.CanPush (1 + level.toNat % 32))
    (display : ∀ j, j + 1 < level.toNat % 32 → c.CanRead16 (c.hart.displaySlot j)) :
    enterFrame size level c = .ok () (c.entered size level) := by
  rw [Nat.add_comm] at room
  obtain ⟨pushed, room⟩ := push_ok room c.hart.BP
  have displayed := enterDisplay_ok (c.hart.SP - 2) room fun j more => canRead16_perm (d := c) rfl rfl (display j more)
  rw [entered_eq]
  exact (exec_bind_ok (getHart_apply c)).trans <| (exec_bind_ok pushed).trans <|
    (exec_bind_ok (getHart_apply _)).trans <| (exec_bind_ok displayed).trans (modHart_apply _ _)

/-- LEAVE pops BP from where BP points (R245). -/
theorem leaveFrame_ok (readable : c.CanRead16 ⟨c.hart.SS, c.hart.BP⟩) :
    leaveFrame c =
      .ok () (c.setHart { c.hart with SP := c.hart.BP + 2, BP := c.wordAt ⟨c.hart.SS, c.hart.BP⟩ }) :=
  (exec_bind_ok (modHart_apply _ c)).trans <|
    (exec_bind_ok (pop16_ok (c := c.setHart { c.hart with SP := c.hart.BP }) readable)).trans (modHart_apply _ _)

/-- Settles O31: the display copies by induction on their number; level 0 has none. -/
theorem enterAndLeave : Obligations.EnterAndLeave := by
  intro s h running
  refine ⟨fun size level room display => ⟨?enter, fun level_zero => ?level_zero⟩, fun readable => ?leave⟩
  case enter => exact exec_completes running rfl (enterFrame_ok room display)
  case level_zero =>
    rw [entered_eq, level_zero]
    rfl
  case leave => exact exec_completes running rfl (leaveFrame_ok readable)

end Sys2Proof.Machine
end

section
/-! SUPPORT. The shifts and rotates (43_shift_rotate.md): a row is the group's one operation `shift` on its operand and
count; the repetition of R271 has a first and a last step, and the rules R272 to R278 about one step give the result and
CF of any number of them; and the statements ShiftForms and ShiftResults. -/

namespace Sys2Proof.Machine

/-! ### The forms -/

/-- The forms whose count is CL read it before the operand (R270). -/
theorem shiftCl_apply {n : Nat} (op : ShiftOp) (rm : Operand n) (c : Cpu) :
    shiftCl op rm c = shift op (c.hart.get8 .CL) rm c :=
  exec_bind_ok (getHart_apply c)

/-- The hardware's mask keeps the low five bits of a count (R9, R271). -/
theorem maskedCount_hardware (raw : Byte) : maskedCount Config.hardware raw = raw.toNat % 32 :=
  (BitVec.toNat_and raw 0x1F).trans (Nat.and_two_pow_sub_one_eq_mod raw.toNat 5)

/-- Settles O34: the rows of a form are `shift` on the same operand and count. -/
theorem shiftForms : Obligations.ShiftForms := by
  intro s h running
  refine ⟨fun p row rm imm readable writable => ?ebImm8, fun p row rm imm readable writable => ?ewImm8,
    fun p row rm readable writable => ?eb1, fun p row rm readable writable => ?ew1,
    fun p row rm readable writable => ?ebCl, fun p row rm readable writable => ?ewCl, fun _ => rfl, maskedCount_hardware⟩
  case ebImm8 =>
    have performed : exec (p.2 rm imm) = perform (withRm8 rm (shift p.1 imm)) := by fin_cases row <;> rfl
    exact exec_completes running performed (shift8_ok readable writable)
  case ewImm8 =>
    have performed : exec (p.2 rm imm) = perform (withRm16 rm (shift p.1 imm)) := by fin_cases row <;> rfl
    exact exec_completes running performed (shift16_ok readable writable)
  case eb1 =>
    have performed : exec (p.2 rm) = perform (withRm8 rm (shift p.1 1)) := by fin_cases row <;> rfl
    exact exec_completes running performed (shift8_ok readable fun _ => writable)
  case ew1 =>
    have performed : exec (p.2 rm) = perform (withRm16 rm (shift p.1 1)) := by fin_cases row <;> rfl
    exact exec_completes running performed (shift16_ok readable fun _ => writable)
  case ebCl =>
    have performed : exec (p.2 rm) = perform (withRm8 rm (shiftCl p.1)) := by fin_cases row <;> rfl
    exact exec_completes running performed ((shiftCl_apply _ _ _).trans (shift8_ok readable writable))
  case ewCl =>
    have performed : exec (p.2 rm) = perform (withRm16 rm (shiftCl p.1)) := by fin_cases row <;> rfl
    exact exec_completes running performed ((shiftCl_apply _ _ _).trans (shift16_ok readable writable))

/-! ### The repetition -/

variable {n : Nat}

theorem shiftRepeat_succ (op : ShiftOp) (k : Nat) (v : BitVec n) (cf : Bool) :
    shiftRepeat op (k + 1) v cf = shiftRepeat op k (shiftStep op v cf).1 (shiftStep op v cf).2 := rfl

theorem shiftRepeat_succ_last (op : ShiftOp) (k : Nat) (v : BitVec n) (cf : Bool) :
    shiftRepeat op (k + 1) v cf = shiftStep op (shiftRepeat op k v cf).1 (shiftRepeat op k v cf).2 := by
  induction k generalizing v cf with
  | zero => rfl
  | succ k ih => rw [shiftRepeat_succ, ih, ← shiftRepeat_succ]

/-! ### Rotations by nothing -/

theorem rotateLeft_zero (x : BitVec n) : x.rotateLeft 0 = x := by
  rw [BitVec.rotateLeft_def, Nat.zero_mod, BitVec.shiftLeft_zero, Nat.sub_zero,
    BitVec.ushiftRight_eq_zero (Nat.le_refl n), BitVec.or_zero]

theorem rotateRight_zero (x : BitVec n) : x.rotateRight 0 = x := by
  rw [BitVec.rotateRight_def, Nat.zero_mod, BitVec.ushiftRight_zero, Nat.sub_zero,
    BitVec.shiftLeft_eq_zero (Nat.le_refl n), BitVec.or_zero]

/-! ### Results -/

theorem shiftRepeat_shl_fst (k : Nat) (v : BitVec n) (cf : Bool) : (shiftRepeat .shl k v cf).1 = v <<< k := by
  induction k with
  | zero => exact (BitVec.shiftLeft_zero v).symm
  | succ k ih => rw [shiftRepeat_succ_last, BitVec.shiftLeft_add, ← ih]; rfl

theorem shiftRepeat_shr_fst (k : Nat) (v : BitVec n) (cf : Bool) : (shiftRepeat .shr k v cf).1 = v >>> k := by
  induction k with
  | zero => exact (BitVec.ushiftRight_zero v).symm
  | succ k ih => rw [shiftRepeat_succ_last, BitVec.shiftRight_add, ← ih]; rfl

section
variable (width : n = 8 ∨ n = 16) (k : Nat) (v : BitVec n) (cf : Bool)
include width

theorem shiftRepeat_sar_fst : (shiftRepeat .sar k v cf).1 = v.sshiftRight k := by
  induction k with
  | zero => exact BitVec.sshiftRight_zero.symm
  | succ k ih => rw [shiftRepeat_succ_last, shiftStep_sar width, ih, BitVec.sshiftRight_add]

/-- A byte or a word rotates, and so does either with the carry flag on top. -/
theorem rotWidth_of_width : RotWidth n ∧ RotWidth (1 + n) := by
  rcases width with rfl | rfl <;> simp [RotWidth]

theorem shiftRepeat_rol_fst : (shiftRepeat .rol k v cf).1 = v.rotateLeft k := by
  induction k generalizing v cf with
  | zero => exact (rotateLeft_zero v).symm
  | succ k ih =>
    rw [shiftRepeat_succ, ih, shiftStep_rol width, rotateLeft_one_rotateLeft (rotWidth_of_width width).1]

theorem shiftRepeat_ror_fst : (shiftRepeat .ror k v cf).1 = v.rotateRight k := by
  induction k generalizing v cf with
  | zero => exact (rotateRight_zero v).symm
  | succ k ih =>
    rw [shiftRepeat_succ, ih, shiftStep_ror width, rotateRight_one_rotateRight (rotWidth_of_width width).1]

theorem shiftRepeat_rcl :
    BitVec.ofBool (shiftRepeat .rcl k v cf).2 ++ (shiftRepeat .rcl k v cf).1 =
      (BitVec.ofBool cf ++ v).rotateLeft k := by
  induction k generalizing v cf with
  | zero => exact (rotateLeft_zero _).symm
  | succ k ih =>
    rw [shiftRepeat_succ, ih, shiftStep_rcl width, rotateLeft_one_rotateLeft (rotWidth_of_width width).2]

theorem shiftRepeat_rcr :
    BitVec.ofBool (shiftRepeat .rcr k v cf).2 ++ (shiftRepeat .rcr k v cf).1 =
      (BitVec.ofBool cf ++ v).rotateRight k := by
  induction k generalizing v cf with
  | zero => exact (rotateRight_zero _).symm
  | succ k ih =>
    rw [shiftRepeat_succ, ih, shiftStep_rcr width, rotateRight_one_rotateRight (rotWidth_of_width width).2]

end

/-! ### The carry flag: the last step decides it -/

/-- SHL shifts out the top bit of what the steps before left. -/
theorem shiftRepeat_shl_snd {k : Nat} (inside : k < n) (v : BitVec n) (cf : Bool) :
    (shiftRepeat .shl (k + 1) v cf).2 = v.getLsbD (n - (k + 1)) := by
  calc (shiftRepeat .shl (k + 1) v cf).2
      = (shiftRepeat .shl k v cf).1.msb := by rw [shiftRepeat_succ_last]; rfl
    _ = v.getMsbD k := by rw [shiftRepeat_shl_fst, BitVec.msb_shiftLeft]
    _ = v.getLsbD (n - (k + 1)) := by
        rw [BitVec.getMsbD_eq_getLsbD, decide_eq_true inside, Bool.true_and, Nat.sub_sub, Nat.add_comm 1]

/-- SHR shifts out the bottom bit of what the steps before left. -/
theorem shiftRepeat_shr_snd (k : Nat) (v : BitVec n) (cf : Bool) :
    (shiftRepeat .shr (k + 1) v cf).2 = v.getLsbD k := by
  calc (shiftRepeat .shr (k + 1) v cf).2
      = (shiftRepeat .shr k v cf).1.getLsbD 0 := by rw [shiftRepeat_succ_last]; rfl
    _ = v.getLsbD k := by rw [shiftRepeat_shr_fst, BitVec.getLsbD_ushiftRight, Nat.add_zero]

section
variable (width : n = 8 ∨ n = 16) (k : Nat) (v : BitVec n) (cf : Bool)
include width

/-- SAR shifts out the bottom bit of what the steps before left. -/
theorem shiftRepeat_sar_snd : (shiftRepeat .sar (k + 1) v cf).2 = (v.sshiftRight k).getLsbD 0 := by
  rw [shiftRepeat_succ_last, shiftStep_sar width, shiftRepeat_sar_fst width]

/-- The bit ROL shifts out is the bottom bit of its result. -/
theorem shiftRepeat_rol_snd : (shiftRepeat .rol (k + 1) v cf).2 = (v.rotateLeft (k + 1)).getLsbD 0 := by
  rw [← shiftRepeat_rol_fst width _ v cf, shiftRepeat_succ_last, shiftStep_rol width]

/-- The bit ROR shifts out is the top bit of its result. -/
theorem shiftRepeat_ror_snd : (shiftRepeat .ror (k + 1) v cf).2 = (v.rotateRight (k + 1)).msb := by
  rw [← shiftRepeat_ror_fst width _ v cf, shiftRepeat_succ_last, shiftStep_ror width]

end

/-- Settles O35: results by induction on the count, CF by its last step. -/
theorem shiftResults : Obligations.ShiftResults := by
  intro n width v cf k
  refine ⟨shiftRepeat_shl_fst k v cf, shiftRepeat_shr_fst k v cf, shiftRepeat_sar_fst width k v cf,
    shiftRepeat_rol_fst width k v cf, shiftRepeat_ror_fst width k v cf, fun nonzero => ?carry,
    shiftRepeat_rcl width k v cf, shiftRepeat_rcr width k v cf⟩
  case carry =>
    obtain ⟨k, rfl⟩ := Nat.exists_eq_succ_of_ne_zero nonzero
    exact ⟨fun inside => shiftRepeat_shl_snd inside v cf, shiftRepeat_shr_snd k v cf, shiftRepeat_sar_snd width k v cf,
      shiftRepeat_rol_snd width k v cf, shiftRepeat_ror_snd width k v cf⟩

end Sys2Proof.Machine
end

section
/-! SUPPORT. The string instructions where nothing is denied (44_string.md): an element that may be accessed completes
and moves the pointers to the next (R290), so a repeated instruction runs it CX times or until it stops (R291); what REP
STOSB leaves of registers and memory; and the statements StringInstructions, RepeatedStrings and RepStosFills. -/

namespace Sys2Proof.Machine

variable {s : State} {h : Hart} {c d : Cpu} {op : StringOp} {n : Nat}

/-! ### One element -/

/-- Settles O36: the one operation of each row completes. -/
theorem stringInstructions : Obligations.StringInstructions := by
  intro s h running
  refine ⟨fun read write => ?movsb, fun read write => ?movsw, fun source target => ?cmpsb,
    fun source target => ?cmpsw, fun write => ?stosb, fun write => ?stosw, fun read => ?lodsb, fun read => ?lodsw,
    fun read => ?scasb, fun read => ?scasw⟩
  case movsb => exact exec_completes running rfl (movsb_ok read write)
  case movsw => exact exec_completes running rfl (movsw_ok read write)
  case cmpsb => exact exec_completes running rfl (cmpsb_ok source target)
  case cmpsw => exact exec_completes running rfl (cmpsw_ok source target)
  case stosb => exact exec_completes running rfl (stosb_ok write)
  case stosw => exact exec_completes running rfl (stosw_ok write)
  case lodsb => exact exec_completes running rfl (lodsb_ok read)
  case lodsw => exact exec_completes running rfl (lodsw_ok read)
  case scasb => exact exec_completes running rfl (scasb_ok read)
  case scasw => exact exec_completes running rfl (scasw_ok read)

/-- An element of `n` bytes that the hart may read. -/
def Cpu.CanReadElement (n : Nat) (c : Cpu) (a : Addr) : Prop := if n = 1 then c.CanRead8 a else c.CanRead16 a

/-- An element of `n` bytes that the hart may write. -/
def Cpu.CanWriteElement (n : Nat) (c : Cpu) (a : Addr) : Prop := if n = 1 then c.CanWrite8 a else c.CanWrite16 a

/-- The `k`th element to come may be accessed as the operation does (R292 to R296). -/
def Cpu.CanElement (op : StringOp) (n : Nat) (c : Cpu) (k : Nat) : Prop :=
  match op with
  | .movs => c.CanReadElement n (c.hart.source n k) ∧ c.CanWriteElement n (c.hart.target n k)
  | .cmps => c.CanReadElement n (c.hart.source n k) ∧ c.CanReadElement n (c.hart.target n k)
  | .stos => c.CanWriteElement n (c.hart.target n k)
  | .lods => c.CanReadElement n (c.hart.source n k)
  | .scas => c.CanReadElement n (c.hart.target n k)

/-- An element that may be accessed completes. -/
theorem elementBody_ok (hn : n = 1 ∨ n = 2) (access : c.CanElement op n 0) :
    elementBody op n c = .ok () (elementLeaves op n c) := by
  obtain rfl | rfl := hn <;> cases op <;>
    simp only [Cpu.CanElement, Cpu.CanReadElement, Cpu.CanWriteElement, source_zero, target_zero, if_true,
      OfNat.ofNat_ne_one, if_false] at access
  case inl.movs => exact movsb_ok access.1 access.2
  case inl.cmps => exact cmpsb_ok access.1 access.2
  case inl.stos => exact stosb_ok access
  case inl.lods => exact lodsb_ok access
  case inl.scas => exact scasb_ok access
  case inr.movs => exact movsw_ok access.1 access.2
  case inr.cmps => exact cmpsw_ok access.1 access.2
  case inr.stos => exact stosw_ok access
  case inr.lods => exact lodsw_ok access
  case inr.scas => exact scasw_ok access

/-! ### Repeats -/

theorem canReadElement_perm {a : Addr} (params : d.params = c.params) (perm : d.hart.perm = c.hart.perm)
    (read : c.CanReadElement n a) : d.CanReadElement n a := by
  unfold Cpu.CanReadElement at read ⊢
  split_ifs at read ⊢
  · exact canRead8_perm params perm read
  · exact canRead16_perm params perm read

theorem canWriteElement_perm {a : Addr} (params : d.params = c.params) (perm : d.hart.perm = c.hart.perm)
    (write : c.CanWriteElement n a) : d.CanWriteElement n a := by
  unfold Cpu.CanWriteElement at write ⊢
  split_ifs at write ⊢
  · exact canWrite8_perm params perm write
  · exact canWrite16_perm params perm write

theorem elementLeaves_params (op : StringOp) (n : Nat) (c : Cpu) : (elementLeaves op n c).params = c.params := by
  cases op <;> simp only [elementLeaves] <;> split <;> rfl

theorem elementLeaves_perm (op : StringOp) (n : Nat) (c : Cpu) : (elementLeaves op n c).hart.perm = c.hart.perm := by
  cases op <;> simp only [elementLeaves] <;> split <;> rfl

/-- What a repeat goes on with after one element: CX one lower (R291). -/
def Cpu.afterElement (op : StringOp) (n : Nat) (c : Cpu) : Cpu :=
  (elementLeaves op n c).setHart { (elementLeaves op n c).hart with CX := (elementLeaves op n c).hart.CX - 1 }

/-- After one element, the elements to come are those that followed it. -/
theorem canElement_next (hn : n = 1 ∨ n = 2) {k : Nat} (access : c.CanElement op n (k + 1)) :
    (c.afterElement op n).CanElement op n k := by
  obtain ⟨ds, es, df, -, si, di⟩ := elementLeaves_pointers (op := op) hn c
  have params : (c.afterElement op n).params = c.params := elementLeaves_params op n c
  have perm : (c.afterElement op n).hart.perm = c.hart.perm := elementLeaves_perm op n c
  have source (uses : op.usesSource = true) : (c.afterElement op n).hart.source n k = c.hart.source n (k + 1) :=
    source_next n k ds df (si.trans (if_pos uses))
  have target (uses : op.usesTarget = true) : (c.afterElement op n).hart.target n k = c.hart.target n (k + 1) :=
    target_next n k es df (di.trans (if_pos uses))
  have readSource (uses : op.usesSource = true) (read : c.CanReadElement n (c.hart.source n (k + 1))) :
      (c.afterElement op n).CanReadElement n ((c.afterElement op n).hart.source n k) := by
    rw [source uses]
    exact canReadElement_perm params perm read
  have readTarget (uses : op.usesTarget = true) (read : c.CanReadElement n (c.hart.target n (k + 1))) :
      (c.afterElement op n).CanReadElement n ((c.afterElement op n).hart.target n k) := by
    rw [target uses]
    exact canReadElement_perm params perm read
  have writeTarget (uses : op.usesTarget = true) (write : c.CanWriteElement n (c.hart.target n (k + 1))) :
      (c.afterElement op n).CanWriteElement n ((c.afterElement op n).hart.target n k) := by
    rw [target uses]
    exact canWriteElement_perm params perm write
  cases op with
  | movs => exact access.imp (readSource rfl) (writeTarget rfl)
  | cmps => exact access.imp (readSource rfl) (readTarget rfl)
  | stos => exact writeTarget rfl access
  | lods => exact readSource rfl access
  | scas => exact readTarget rfl access

/-- A repeated string instruction all of whose elements may be accessed (R291). -/
theorem exec_repeat_completes (op : StringOp) (n : Nat) {i : Instr} {stop : Flags → Bool} (hn : n = 1 ∨ n = 2)
    (running : s.Running h) (performed : exec i = perform (repeatString (elementBody op n) stop))
    (access : ∀ k, k < h.CX.toNat → (s.cpu h).CanElement op n k) :
    exec i s = .next (s.commit (Cpu.repeated (elementLeaves op n) stop h.CX.toNat (s.cpu h))) :=
  exec_completes running performed <|
    repeatString_ok stop (Cpu.CanElement op n) (fun _ => elementBody_ok hn) (fun _ _ => canElement_next hn) access

/-- Settles O37: a row repeats its operation's element, under the stop condition of REP, REPZ or REPNZ. -/
theorem repeatedStrings : Obligations.RepeatedStrings := by
  intro s h running
  refine ⟨fun access i row => ?movsb, fun access i row => ?movsw, fun access i row => ?stosb,
    fun access i row => ?stosw, fun access i row => ?lodsb, fun access i row => ?lodsw,
    fun access i row => ?repzCmpsb, fun access i row => ?repnzCmpsb, fun access i row => ?repzCmpsw,
    fun access i row => ?repnzCmpsw, fun access i row => ?repzScasb, fun access i row => ?repnzScasb,
    fun access i row => ?repzScasw, fun access i row => ?repnzScasw⟩
  case movsb => exact exec_repeat_completes .movs 1 (.inl rfl) running (by fin_cases row <;> rfl) access
  case movsw => exact exec_repeat_completes .movs 2 (.inr rfl) running (by fin_cases row <;> rfl) access
  case stosb => exact exec_repeat_completes .stos 1 (.inl rfl) running (by fin_cases row <;> rfl) access
  case stosw => exact exec_repeat_completes .stos 2 (.inr rfl) running (by fin_cases row <;> rfl) access
  case lodsb => exact exec_repeat_completes .lods 1 (.inl rfl) running (by fin_cases row <;> rfl) access
  case lodsw => exact exec_repeat_completes .lods 2 (.inr rfl) running (by fin_cases row <;> rfl) access
  case repzCmpsb | repnzCmpsb =>
    exact exec_repeat_completes .cmps 1 (.inl rfl) running (by fin_cases row; rfl) access
  case repzCmpsw | repnzCmpsw =>
    exact exec_repeat_completes .cmps 2 (.inr rfl) running (by fin_cases row; rfl) access
  case repzScasb | repnzScasb =>
    exact exec_repeat_completes .scas 1 (.inl rfl) running (by fin_cases row; rfl) access
  case repzScasw | repnzScasw =>
    exact exec_repeat_completes .scas 2 (.inr rfl) running (by fin_cases row; rfl) access

/-! ### REP STOSB -/

/-- With DF clear the bytes of a string lie upward (R290). -/
theorem target_upward (up : h.flags.DF = false) (k : Nat) : h.target 1 k = ⟨h.ES, h.DI + BitVec.ofNat 16 k⟩ := by
  simp [Hart.target, stringStep, up]

/-- Where `k` bytes lead: only CX and DI differ (R291, R294). -/
theorem repeated_stosb_hart : ∀ (k : Nat) (c : Cpu),
    (Cpu.repeated Cpu.stosb neverStop k c).hart =
      { c.hart with CX := c.hart.CX - BitVec.ofNat 16 k, DI := (c.hart.target 1 k).off }
  | 0, c => by simp [Cpu.repeated]
  | k + 1, c => by
    have next : (c.afterElement .stos 1).hart.target 1 k = c.hart.target 1 (k + 1) := target_next 1 k rfl rfl rfl
    have count : c.hart.CX - 1 - BitVec.ofNat 16 k = c.hart.CX - BitVec.ofNat 16 (k + 1) := by
      rw [BitVec.ofNat_add]
      bv_omega
    refine (repeated_stosb_hart k (c.afterElement .stos 1)).trans ?_
    rw [next, ← count]
    rfl

/-- What memory reads as after `k` bytes: AL at each of their addresses, the rest as before (R291, R294). -/
theorem repeated_stosb_read (L : Nat) : ∀ (k : Nat) (c : Cpu),
    (Cpu.repeated Cpu.stosb neverStop k c).mem.read c.params L =
      if ∃ j, j < k ∧ L = lin c.params (c.hart.target 1 j) then c.hart.get8 .AL else c.mem.read c.params L
  | 0, c => by simp [Cpu.repeated]
  | k + 1, c => by
    have next (j : Nat) : (c.afterElement .stos 1).hart.target 1 j = c.hart.target 1 (j + 1) :=
      target_next 1 j rfl rfl rfl
    have first : (c.afterElement .stos 1).mem.read c.params L =
        if L = lin c.params (c.hart.target 1 0) then c.hart.get8 .AL else c.mem.read c.params L := by
      rw [target_zero]
      exact read_write ..
    refine (repeated_stosb_read L k (c.afterElement .stos 1)).trans ?_
    have params : (c.afterElement .stos 1).params = c.params := rfl
    have al : (c.afterElement .stos 1).hart.get8 .AL = c.hart.get8 .AL := rfl
    simp only [next, params, al, first, Nat.exists_lt_succ_left]
    rw [if_congr or_comm rfl rfl, ite_or]

/-- Settles O38: what the repeat leaves is the closed form of CX bytes. -/
theorem repStosFills : Obligations.RepStosFills := by
  intro s t h g running up writable next after
  have access (k : Nat) (hk : k < h.CX.toNat) : (s.cpu h).CanElement .stos 1 k := by
    have write := writable k hk
    rwa [← target_upward up] at write
  have leaves := exec_repeat_completes .stos 1 (i := .repStosb) (.inl rfl) running rfl access
  obtain rfl := Host.Outcome.next.inj (next.symm.trans leaves)
  have read (L : Nat) := repeated_stosb_read L h.CX.toNat (s.cpu h)
  simp only [State.cpu_hart, State.cpu_params, target_upward up] at read
  refine ⟨?hart, fun k hk => ?filled, fun L outside => ?others⟩
  case hart =>
    refine (running_commit running after).trans ((repeated_stosb_hart h.CX.toNat (s.cpu h)).trans ?_)
    simp [target_upward up]
  case filled => exact (read _).trans (if_pos ⟨k, hk, rfl⟩)
  case others => exact (read L).trans (if_neg fun ⟨k, hk, same⟩ => outside k hk same)

end Sys2Proof.Machine
end

section
/-! SUPPORT. Multiplication and division (R314 to R318): a product of two `n`-bit operands fits twice the width, and the
flags say whether it fits the width; a quotient and remainder that satisfy the division are the ones computed; and the
statements Multiplies and Divides. -/

namespace Sys2Proof.Machine

/-! ### Products and their halves -/

variable {n m : Nat}

theorem exists_unsigned_product (width : n + n = m) (a b : BitVec n) :
    ∃ p : BitVec m, p.toNat = a.toNat * b.toNat := by
  have bound : a.toNat * b.toNat < 2 ^ m := by
    rw [← width, Nat.pow_add]
    exact Nat.mul_lt_mul'' a.isLt b.isLt
  exact ⟨BitVec.ofNat m (a.toNat * b.toNat), (BitVec.toNat_ofNat _ _).trans (Nat.mod_eq_of_lt bound)⟩

theorem exists_signed_product (positive : 0 < n) (width : n + n = m) (a b : BitVec n) :
    ∃ p : BitVec m, p.toInt = a.toInt * b.toInt := by
  have lower := BitVec.le_toInt_mul_toInt (x := a) (y := b)
  have upper := BitVec.toInt_mul_toInt_le (x := a) (y := b)
  have room : (2 : Int) ^ (m - 1) = 2 ^ (n * 2 - 2) * 2 := by
    rw [← pow_succ]
    congr 1
    omega
  have quarter : (0 : Int) < 2 ^ (n * 2 - 2) := by positivity
  exact ⟨BitVec.ofInt m (a.toInt * b.toInt), BitVec.toInt_ofInt_eq_self (by omega) (by omega) (by omega)⟩

/-- The upper half is not 0 exactly when the value needs more than the lower half (R314). -/
theorem upperHalf_ne_zero (width : n + n = m) (p : BitVec m) :
    (p.extractLsb' n n != 0) = decide (2 ^ n ≤ p.toNat) := by
  have upper : (p.extractLsb' n n).toNat = p.toNat / 2 ^ n := by
    have bound : p.toNat < 2 ^ n * 2 ^ n := by
      rw [← Nat.pow_add, width]
      exact p.isLt
    rw [BitVec.extractLsb'_toNat, Nat.shiftRight_eq_div_pow, Nat.mod_eq_of_lt (Nat.div_lt_of_lt_mul bound)]
  rw [Bool.eq_iff_iff, bne_iff_ne, decide_eq_true_iff, Ne, ← BitVec.toNat_inj, upper, BitVec.ofNat_eq_ofNat,
    BitVec.toNat_ofNat, Nat.zero_mod, Nat.div_eq_zero_iff, not_or, Nat.not_lt]
  exact and_iff_right (by positivity)

/-- The low bits of a value are the value cut to their width, taken with its sign or without (R318). -/
theorem lowBits_eq_ofInt (narrower : n ≤ m) (p : BitVec m) : p.extractLsb' 0 n = BitVec.ofInt n p.toInt := by
  rw [← BitVec.setWidth_eq_extractLsb' narrower, ← BitVec.toInt_inj, BitVec.toInt_setWidth, BitVec.toInt_ofInt,
    BitVec.toInt_eq_toNat_bmod, Int.bmod_bmod_of_dvd (Nat.pow_dvd_pow 2 narrower)]

/-- A value differs from its sign-extended low bits exactly when it is outside their signed range (R315, R318). -/
theorem ne_signExtend_lowBits (positive : 0 < n) (narrower : n ≤ m) (p : BitVec m) :
    (p != (p.extractLsb' 0 n).signExtend m) = decide (p.toInt < -2 ^ (n - 1) ∨ 2 ^ (n - 1) ≤ p.toInt) := by
  have fits : p = (p.extractLsb' 0 n).signExtend m ↔ -2 ^ (n - 1) ≤ p.toInt ∧ p.toInt < 2 ^ (n - 1) := by
    rw [← BitVec.toInt_inj, BitVec.toInt_signExtend_of_le narrower]
    constructor
    · intro same
      rw [same]
      exact ⟨BitVec.le_toInt _, BitVec.toInt_lt⟩
    · rintro ⟨lower, upper⟩
      rw [lowBits_eq_ofInt narrower, BitVec.toInt_ofInt_eq_self positive lower upper]
  rw [Bool.eq_iff_iff, bne_iff_ne, decide_eq_true_iff, Ne, fits]
  omega

/-! ### The multiplies -/

variable {c : Cpu}

/-- The end of every multiply: the product assigned, then the flags (R314, R315, R318). -/
theorem multiplied_ok (f : Hart → Hart) (wide : Bool) (c : Cpu) :
    (do modHart f; mulFlags wide : Exec Unit) c = .ok () ((c.setHart (f c.hart)).mulFlagged wide) :=
  (exec_bind_ok (modHart_apply f c)).trans (mulFlags_ok _ wide)

/-- MUL of a byte (R314). -/
theorem mulByte_ok {rm : Operand 8} {b : Byte} {p : Word} (get : rm.get c = .ok b c)
    (product : p.toNat = (c.hart.get8 .AL).toNat * b.toNat) :
    mulByte rm c = .ok () ((c.setHart { c.hart with AX := p }).mulFlagged (highByte p != 0)) := by
  refine (exec_bind_ok get).trans <| (exec_bind_ok (getHart_apply c)).trans ?_
  simp only [← product, BitVec.ofNat_toNat, BitVec.setWidth_eq, highByte, upperHalf_ne_zero (n := 8) rfl]
  exact multiplied_ok _ _ c

/-- MUL of a word (R314). -/
theorem mulWord_ok {rm : Operand 16} {b : Word} {p : BitVec 32} (get : rm.get c = .ok b c)
    (product : p.toNat = c.hart.AX.toNat * b.toNat) :
    mulWord rm c = .ok () ((c.setHart (c.hart.setDxAx p)).mulFlagged (p.extractLsb' 16 16 != 0)) := by
  refine (exec_bind_ok get).trans <| (exec_bind_ok (getHart_apply c)).trans ?_
  simp only [← product, BitVec.ofNat_toNat, BitVec.setWidth_eq, upperHalf_ne_zero (n := 16) rfl]
  exact multiplied_ok _ _ c

/-- IMUL of a byte (R315). -/
theorem imulByte_ok {rm : Operand 8} {b : Byte} {p : Word} (get : rm.get c = .ok b c)
    (product : p.toInt = (c.hart.get8 .AL).toInt * b.toInt) :
    imulByte rm c =
      .ok () ((c.setHart { c.hart with AX := p }).mulFlagged (p != (lowByte p).signExtend 16)) := by
  refine (exec_bind_ok get).trans <| (exec_bind_ok (getHart_apply c)).trans ?_
  simp only [← product, BitVec.ofInt_toInt, lowByte, ne_signExtend_lowBits (n := 8) (m := 16) (by decide) (by decide)]
  exact multiplied_ok _ _ c

/-- IMUL of a word (R315). -/
theorem imulWord_ok {rm : Operand 16} {b : Word} {p : BitVec 32} (get : rm.get c = .ok b c)
    (product : p.toInt = c.hart.AX.toInt * b.toInt) :
    imulWord rm c =
      .ok () ((c.setHart (c.hart.setDxAx p)).mulFlagged (p != (p.extractLsb' 0 16).signExtend 32)) := by
  refine (exec_bind_ok get).trans <| (exec_bind_ok (getHart_apply c)).trans ?_
  simp only [← product, BitVec.ofInt_toInt, ne_signExtend_lowBits (n := 16) (m := 32) (by decide) (by decide)]
  exact multiplied_ok _ _ c

/-- IMUL of three operands (R318). -/
theorem imulThree_ok {rm : Operand 16} {a imm : Word} {p : BitVec 32} (r : Reg16) (get : rm.get c = .ok a c)
    (product : p.toInt = a.toInt * imm.toInt) :
    imulThree r rm imm c = .ok () ((c.setHart (c.hart.set16 r (p.extractLsb' 0 16))).mulFlagged
      (p != (p.extractLsb' 0 16).signExtend 32)) := by
  refine (exec_bind_ok get).trans ?_
  rw [ne_signExtend_lowBits (by decide) (by decide), lowBits_eq_ofInt (by decide), product]
  exact multiplied_ok _ _ c

/-- Settles O39: a product of twice the width exists for every two operands, and each form leaves it. -/
theorem multiplies : Obligations.Multiplies := by
  intro s h running
  refine ⟨fun rm readable => ⟨?mulEb, ?imulEb⟩,
    fun rm readable => ⟨?mulEw, ?imulEw, fun r imm => ?imulImm16, fun r imm => ?imulSimm8⟩⟩
  case mulEb =>
    obtain ⟨p, product⟩ := exists_unsigned_product rfl (h.get8 .AL) ((s.cpu h).readRm8 rm)
    exact ⟨p, product, exec_completes running rfl (mulByte_ok (operand8_get_ok readable) product)⟩
  case imulEb =>
    obtain ⟨p, product⟩ := exists_signed_product (by decide) rfl (h.get8 .AL) ((s.cpu h).readRm8 rm)
    exact ⟨p, product, exec_completes running rfl (imulByte_ok (operand8_get_ok readable) product)⟩
  case mulEw =>
    obtain ⟨p, product⟩ := exists_unsigned_product rfl h.AX ((s.cpu h).readRm16 rm)
    exact ⟨p, product, exec_completes running rfl (mulWord_ok (operand16_get_ok readable) product)⟩
  case imulEw =>
    obtain ⟨p, product⟩ := exists_signed_product (by decide) rfl h.AX ((s.cpu h).readRm16 rm)
    exact ⟨p, product, exec_completes running rfl (imulWord_ok (operand16_get_ok readable) product)⟩
  case imulImm16 =>
    obtain ⟨p, product⟩ := exists_signed_product (by decide) rfl ((s.cpu h).readRm16 rm) imm
    exact ⟨p, product, exec_completes running rfl (imulThree_ok r (operand16_get_ok readable) product)⟩
  case imulSimm8 =>
    have same_value : (sext8 imm).toInt = imm.toInt := BitVec.toInt_signExtend_of_le (by decide)
    obtain ⟨p, product⟩ := exists_signed_product (by decide) rfl ((s.cpu h).readRm16 rm) (sext8 imm)
    exact ⟨p, same_value ▸ product, exec_completes running rfl (imulThree_ok r (operand16_get_ok readable) product)⟩

/-! ### The divides -/

/-- The end of every divide whose divisor is not 0 and whose quotient fits (R316, R317). -/
theorem divided_ok {zero tooBig : Prop} [Decidable zero] [Decidable tooBig] (nonzero : ¬ zero) (fits : ¬ tooBig)
    (f : Hart → Hart) (c : Cpu) :
    (if zero then raise .divisionFault else if tooBig then raise .divisionFault
      else do modHart f; divFlags : Exec Unit) c = .ok () (c.setHart (f c.hart)).divFlagged := by
  rw [if_neg nonzero, if_neg fits]
  exact (exec_bind_ok (modHart_apply f c)).trans (divFlags_ok _)

/-- The quotient and remainder of a division are determined by it (R316). -/
theorem div_mod_of_division {a q d r : Nat} (division : a = q * d + r) (smaller : r < d) : a / d = q ∧ a % d = r :=
  (Nat.div_mod_unique (Nat.zero_lt_of_lt smaller)).2 ⟨by rw [division, Nat.add_comm, Nat.mul_comm], smaller⟩

/-- DIV by a byte (R316). -/
theorem divByte_ok {rm : Operand 8} {d q r : Byte} (get : rm.get c = .ok d c)
    (division : c.hart.AX.toNat = q.toNat * d.toNat + r.toNat) (smaller : r.toNat < d.toNat) :
    divByte rm c = .ok () (c.setHart { c.hart with AX := joinBytes r q }).divFlagged := by
  obtain ⟨quotient, remainder⟩ := div_mod_of_division division smaller
  refine (exec_bind_ok get).trans <| (exec_bind_ok (getHart_apply c)).trans ?_
  simp only [quotient, remainder, BitVec.ofNat_toNat, BitVec.setWidth_eq]
  exact divided_ok (by omega) (by omega) _ c

/-- DIV by a word (R316). -/
theorem divWord_ok {rm : Operand 16} {d q r : Word} (get : rm.get c = .ok d c)
    (division : c.hart.dxAx.toNat = q.toNat * d.toNat + r.toNat) (smaller : r.toNat < d.toNat) :
    divWord rm c = .ok () (c.setHart { c.hart with AX := q, DX := r }).divFlagged := by
  obtain ⟨quotient, remainder⟩ := div_mod_of_division division smaller
  refine (exec_bind_ok get).trans <| (exec_bind_ok (getHart_apply c)).trans ?_
  simp only [quotient, remainder, BitVec.ofNat_toNat, BitVec.setWidth_eq]
  exact divided_ok (by omega) (by omega) _ c

/-- What is left of the dividend after the quotient rounded toward zero is the remainder (R317). -/
theorem sub_quotient_mul {a q d r : Int} (quotient : q = a.tdiv d) (remainder : r = a.tmod d) : a - q * d = r := by
  rw [quotient, remainder, Int.tmod_def, Int.mul_comm]

/-- IDIV by a byte (R317). -/
theorem idivByte_ok {rm : Operand 8} {d q r : Byte} (get : rm.get c = .ok d c) (nonzero : d ≠ 0)
    (quotient : q.toInt = c.hart.AX.toInt.tdiv d.toInt) (remainder : r.toInt = c.hart.AX.toInt.tmod d.toInt) :
    idivByte rm c = .ok () (c.setHart { c.hart with AX := joinBytes r q }).divFlagged := by
  have lower : -128 ≤ q.toInt := q.le_toInt
  have upper : q.toInt < 128 := q.toInt_lt
  have fits : ¬ (q.toInt < -128 ∨ 127 < q.toInt) := by omega
  refine (exec_bind_ok get).trans <| (exec_bind_ok (getHart_apply c)).trans ?_
  simp only [← quotient, sub_quotient_mul quotient remainder, BitVec.ofInt_toInt]
  exact divided_ok (BitVec.toInt_ne.mpr nonzero) fits _ c

/-- IDIV by a word (R317). -/
theorem idivWord_ok {rm : Operand 16} {d q r : Word} (get : rm.get c = .ok d c) (nonzero : d ≠ 0)
    (quotient : q.toInt = c.hart.dxAx.toInt.tdiv d.toInt) (remainder : r.toInt = c.hart.dxAx.toInt.tmod d.toInt) :
    idivWord rm c = .ok () (c.setHart { c.hart with AX := q, DX := r }).divFlagged := by
  have lower : -32768 ≤ q.toInt := q.le_toInt
  have upper : q.toInt < 32768 := q.toInt_lt
  have fits : ¬ (q.toInt < -32768 ∨ 32767 < q.toInt) := by omega
  refine (exec_bind_ok get).trans <| (exec_bind_ok (getHart_apply c)).trans ?_
  simp only [← quotient, sub_quotient_mul quotient remainder, BitVec.ofInt_toInt]
  exact divided_ok (BitVec.toInt_ne.mpr nonzero) fits _ c

/-- Settles O40: the quotient and remainder given are those computed, and a quotient that is a word of the form's width
fits. -/
theorem divides : Obligations.Divides := by
  intro s h running
  refine ⟨fun rm readable nonzero => ⟨fun q r division smaller => ?divEb, fun q r quotient remainder => ?idivEb⟩,
    fun rm readable nonzero => ⟨fun q r division smaller => ?divEw, fun q r quotient remainder => ?idivEw⟩⟩
  case divEb => exact exec_completes running rfl (divByte_ok (operand8_get_ok readable) division smaller)
  case idivEb => exact exec_completes running rfl (idivByte_ok (operand8_get_ok readable) nonzero quotient remainder)
  case divEw => exact exec_completes running rfl (divWord_ok (operand16_get_ok readable) division smaller)
  case idivEw => exact exec_completes running rfl (idivWord_ok (operand16_get_ok readable) nonzero quotient remainder)

end Sys2Proof.Machine
end

section
/-! SUPPORT. Control transfer (46_control.md): a jump assigns IP, or CS and IP; a call pushes first; a return pops; an
interrupt pushes its frame and then reads its vector; and the statements ConditionalJumps, JumpsAndCalls, Returns,
Interrupts and InterruptWithoutVectorKills. -/

namespace Sys2Proof.Machine

variable {s : State} {h : Hart} {c : Cpu}

/-! ### Jumps on a condition -/

/-- A conditional jump moves IP or does nothing (R331). -/
theorem jumpIf_ok (condition : Flags → Bool) (rel : Byte) (c : Cpu) :
    jumpIf condition rel c = .ok () (if condition c.hart.flags then
      c.setHart { c.hart with IP := c.hart.IP + sext8 rel } else c) := by
  refine (exec_bind_ok (getHart_apply c)).trans ?_
  cases condition c.hart.flags <;> rfl

/-- The LOOPs: CX is 0 after the decrement exactly when it was 1 (R348 to R350). -/
theorem loopWhile_ok (condition : Flags → Bool) (rel : Byte) (c : Cpu) :
    loopWhile condition rel c = .ok () (c.setHart { c.hart with
      CX := c.hart.CX - 1
      IP := if c.hart.CX ≠ 1 ∧ condition c.hart.flags = true then c.hart.IP + sext8 rel else c.hart.IP }) := by
  have counted : c.hart.CX - 1 ≠ 0 ∧ condition c.hart.flags = true ↔ c.hart.CX ≠ 1 ∧ condition c.hart.flags = true :=
    and_congr_left' sub_ne_zero
  refine (exec_bind_ok (modHart_apply _ c)).trans <| (exec_bind_ok (getHart_apply _)).trans ?_
  by_cases jumps : c.hart.CX ≠ 1 ∧ condition c.hart.flags = true
  · rw [if_pos jumps]
    exact congrFun (if_pos (counted.mpr jumps)) _
  · rw [if_neg jumps]
    exact congrFun (if_neg (mt counted.mp jumps)) _

/-- JCXZ leaves CX (R351). -/
theorem jumpIfCxZero_ok (rel : Byte) (c : Cpu) :
    jumpIfCxZero rel c = .ok () (if c.hart.CX = 0 then
      c.setHart { c.hart with IP := c.hart.IP + sext8 rel } else c) := by
  refine (exec_bind_ok (getHart_apply c)).trans ?_
  split <;> rfl

/-- Settles O42: the sixteen rows are `jumpIf` and the LOOPs `loopWhile`, each on its condition. -/
theorem conditionalJumps : Obligations.ConditionalJumps := by
  intro s h rel running
  refine ⟨fun p row => ?jcc, fun p row => ?loop, ?jcxz⟩
  case jcc =>
    have performed : exec (p.2 rel) = perform (jumpIf p.1 rel) := by fin_cases row <;> rfl
    exact exec_completes running performed (jumpIf_ok p.1 rel _)
  case loop =>
    have performed : exec (p.2 rel) = perform (loopWhile p.1 rel) := by fin_cases row <;> rfl
    exact exec_completes running performed (loopWhile_ok p.1 rel _)
  case jcxz => exact exec_completes running rfl (jumpIfCxZero_ok rel _)

/-! ### Jumps and calls -/

/-- An indirect jump (R356). -/
theorem jumpIndirect_ok {rm : Operand 16} {t : Word} (get : rm.get c = .ok t c) :
    jumpIndirect rm c = .ok () (c.setHart { c.hart with IP := t }) :=
  (exec_bind_ok get).trans (modHart_apply _ c)

/-- An indirect far jump (R357). -/
theorem jumpFarIndirect_ok {m : MemOp} (offset : c.CanRead16 (c.hart.ea m))
    (segment : c.CanRead16 (addOffset (c.hart.ea m) 2)) :
    jumpFarIndirect m c = .ok () (c.setHart
      { c.hart with CS := c.wordAt (addOffset (c.hart.ea m) 2), IP := c.wordAt (c.hart.ea m) }) :=
  (exec_bind_ok (getHart_apply c)).trans <|
    (exec_bind_ok (readFarPointer_ok offset segment)).trans (modHart_apply _ c)

/-- A relative call (R358). -/
theorem callBy_ok (room : c.CanPush 1) (d : Word) :
    callBy d c = .ok () ((c.push c.hart.IP).setHart { (c.push c.hart.IP).hart with IP := c.hart.IP + d }) :=
  (exec_bind_ok (getHart_apply c)).trans <| (exec_bind_ok (push_one_ok room _)).trans (modHart_apply _ _)

/-- An indirect call goes to the word its operand held before the push (R360). -/
theorem callIndirect_ok {rm : Operand 16} {t : Word} (room : c.CanPush 1) (get : rm.get c = .ok t c) :
    callIndirect rm c = .ok () ((c.push c.hart.IP).setHart { (c.push c.hart.IP).hart with IP := t }) :=
  (exec_bind_ok get).trans <| (exec_bind_ok (getHart_apply c)).trans <|
    (exec_bind_ok (push_one_ok room _)).trans (modHart_apply _ _)

/-- A far call: CS pushed, then IP (R359). -/
theorem callFar_ok (room : c.CanPush 2) (o sg : Word) :
    let d := (c.push c.hart.CS).push c.hart.IP
    callFar o sg c = .ok () (d.setHart { d.hart with CS := sg, IP := o }) :=
  (callFar_eq o sg c).trans <| (pushes_ok room).trans (modHart_apply _ _)

/-- Settles O43: a jump assigns IP, or CS and IP, and a call does so after its pushes. -/
theorem jumpsAndCalls : Obligations.JumpsAndCalls := by
  intro s h running
  refine ⟨fun rel => ?jmpRel8, fun rel => ?jmpRel16, fun o sg => ?jmpPtr, fun rm readable => ?jmpEw,
    fun m offset segment => ?jmpFarM, fun room => ⟨fun rel => ?callRel16, fun rm readable => ?callEw⟩,
    fun room => ⟨fun o sg => ?callPtr, fun m offset segment => ?callFarM⟩⟩
  case jmpRel8 => exact exec_modHart (fun g => { g with IP := g.IP + sext8 rel }) running rfl
  case jmpRel16 => exact exec_modHart (fun g => { g with IP := g.IP + rel }) running rfl
  case jmpPtr => exact exec_modHart (fun g => { g with CS := sg, IP := o }) running rfl
  case jmpEw => exact exec_completes running rfl (jumpIndirect_ok (operand16_get_ok readable))
  case jmpFarM => exact exec_completes running rfl (jumpFarIndirect_ok offset segment)
  case callRel16 => exact exec_completes running rfl (callBy_ok room rel)
  case callEw => exact exec_completes running rfl (callIndirect_ok room (operand16_get_ok readable))
  case callPtr => exact exec_completes running rfl (callFar_ok room o sg)
  case callFarM =>
    exact exec_completes running rfl ((callFarIndirect_eq offset segment).trans (callFar_ok room _ _))

/-! ### Returns -/

/-- RET adds its immediate after the pop (R362, R363). -/
theorem nearReturn_ok (readable : c.CanPop 1) (n : Word) :
    nearReturn n c = .ok () (c.setHart { c.hart with IP := c.stackWord 0, SP := c.hart.SP + 2 + n }) :=
  pop_then_ok readable (modHart_apply (fun g => { g with IP := c.stackWord 0, SP := g.SP + n }) _)

/-- The first two pops of a far return and of IRET (R364, R372). -/
theorem pop_ip_then_pop {k : Word → Exec Unit} (readable : c.CanPop 2) :
    (do let ip ← pop16; modHart fun g => { g with IP := ip }; pop16 >>= k) c =
      k (c.stackWord 1) (c.setHart { c.hart with IP := c.stackWord 0, SP := c.hart.SP + 4 }) := by
  let afterIp := { c.hart.popped 1 with IP := c.stackWord 0 }
  refine (exec_bind_ok (pop_ok readable).1).trans <| (exec_bind_ok (modHart_setHart _ _ _)).trans ?_
  exact exec_bind_ok (pop_slot (g := afterIp) rfl rfl rfl (readable 1 Nat.one_lt_two))

/-- RETF adds its immediate after both pops (R364, R365). -/
theorem farReturn_ok (readable : c.CanPop 2) (n : Word) :
    farReturn n c = .ok () (c.setHart
      { c.hart with IP := c.stackWord 0, CS := c.stackWord 1, SP := c.hart.SP + 4 + n }) :=
  (pop_ip_then_pop readable).trans (modHart_setHart _ _ _)

/-- IRET pops IP, CS and FLAGS (R372). -/
theorem interruptReturn_ok (readable : c.CanPop 3) :
    interruptReturn c = .ok () (c.setHart { c.hart with
      IP := c.stackWord 0, CS := c.stackWord 1, flags := Flags.ofWord (c.stackWord 2), SP := c.hart.SP + 6 }) := by
  have first_two : c.CanPop 2 := fun k more => readable k (Nat.lt_succ_of_lt more)
  let afterCs := { c.hart.popped 2 with IP := c.stackWord 0, CS := c.stackWord 1 }
  refine (pop_ip_then_pop first_two).trans <| (exec_bind_ok (modHart_setHart _ _ _)).trans ?_
  refine (exec_bind_ok (pop_slot (g := afterCs) rfl rfl rfl (readable 2 (by decide)))).trans ?_
  exact modFlags_apply _ _

/-- Settles O44: the returns without an immediate are those with the immediate 0. -/
theorem returns : Obligations.Returns := by
  intro s h running
  refine ⟨fun readable => ⟨?ret, fun n => ?retImm⟩, fun readable => ⟨?retf, fun n => ?retfImm⟩, fun readable => ?iret⟩
  case ret =>
    rw [← BitVec.add_zero (h.SP + 2)]
    exact exec_completes running rfl (nearReturn_ok readable 0)
  case retImm => exact exec_completes running rfl (nearReturn_ok readable n)
  case retf =>
    rw [← BitVec.add_zero (h.SP + 4)]
    exact exec_completes running rfl (farReturn_ok readable 0)
  case retfImm => exact exec_completes running rfl (farReturn_ok readable n)
  case iret => exact exec_completes running rfl (interruptReturn_ok readable)

/-! ### Interrupts -/

/-- The instructions that dispatch vector `n` leave what its dispatch leaves (R371, R373, R374). -/
theorem interrupts_dispatch {n : Byte} {t : Answer} (running : s.Running h) (dispatches : perform (dispatch n) s = t) :
    (isVirtualVector n = false → exec (.intImm8 n) s = t) ∧
    (n = 3 → exec .int3 s = t) ∧
    (n = 4 → h.flags.OF = true → exec .into s = t) := by
  refine ⟨fun other => ?intImm8, fun three => ?int3, fun four overflow => ?into⟩
  case intImm8 => exact (congrFun (congrArg perform (interrupt_eq_dispatch other)) s).trans dispatches
  case int3 =>
    subst three
    exact dispatches
  case into =>
    subst four
    exact (exec_into_overflow running overflow).trans dispatches

/-- INTO with OF clear does nothing (R374). -/
theorem interruptOnOverflow_clear (clear : c.hart.flags.OF = false) : interruptOnOverflow c = .ok () c := by
  refine (exec_bind_ok (getHart_apply c)).trans ?_
  rw [clear]
  rfl

/-- The segment word of a vector lies two bytes above its offset word (R370). -/
theorem vectorAddr_segment (n : Byte) : addOffset (vectorAddr n) 2 = ⟨0, BitVec.ofNat 16 (4 * n.toNat + 2)⟩ := by
  rw [BitVec.ofNat_add]
  rfl

/-- Settles O45: the frame is pushed, then the vector read; clearing IF and TF between the pushes is clearing them
after. -/
theorem interrupts : Obligations.Interrupts := by
  intro s h running
  refine ⟨fun n room offset segment => ?dispatched, fun clear => ?clear⟩
  case dispatched =>
    rw [← vectorAddr_segment] at segment ⊢
    have done := perform_ok running (dispatch_ok room offset segment)
    rw [Cpu.dispatched, pushFrame_eq] at done
    exact interrupts_dispatch running done
  case clear =>
    exact (exec_completes running rfl (interruptOnOverflow_clear clear)).trans (by rw [commit_cpu running])

/-- The dispatch with its three pushes done (R370). -/
theorem dispatch_pushed (n : Byte) (room : c.CanPush 3) : dispatch n c = loadVector n c.pushFrame := by
  have first : c.CanPush 1 := fun k more => room k (by omega)
  have others : c.flagsPushed.CanPush 2 :=
    canPush_congr (d := c.push c.hart.flags.toWord) rfl rfl rfl rfl (push_ok room _).2
  exact (dispatch_eq n first).trans (pushes_ok others)

/-- A vector whose first byte may not be read changes nothing after the pushes (R370, R431). -/
theorem loadVector_denied {n : Byte}
    (denied : allowed c.params c.hart.perm (lin c.params (vectorAddr n)) .read = false) :
    loadVector n c = .error (.memoryFault .read (lin c.params (vectorAddr n))) c :=
  exec_bind_error (exec_bind_error (readByte_denied denied))

/-- Settles O46: the pushes leave the rights as they were, so the vector is denied after them as before. -/
theorem interruptWithoutVectorKills : Obligations.InterruptWithoutVectorKills := by
  intro s h n running _ _ _ _ room denied
  have fault := (dispatch_pushed n room).trans (loadVector_denied (c := (s.cpu h).pushFrame) (n := n)
    (by rwa [pushFrame_params, pushFrame_perm]))
  rw [pushFrame_params, pushFrame_eq] at fault
  exact interrupts_dispatch running (perform_error running fault)

end Sys2Proof.Machine
end

section
/-! SUPPORT. The flag instructions (R381 to R389): each assigns FLAGS, LAHF one byte register; and the statement
FlagInstructions. -/

namespace Sys2Proof.Machine

variable {s : State} {h : Hart} {i : Instr}

/-- An instruction of the hart whose turn it is that only assigns flags. -/
theorem exec_modFlags (f : Flags → Flags) (running : s.Running h) (performed : exec i = perform (modFlags f)) :
    exec i s = .next (s.commit ((s.cpu h).setFlags (f h.flags))) :=
  exec_completes running performed (modFlags_apply f _)

theorem storeAhIntoFlags_apply (c : Cpu) :
    storeAhIntoFlags c = .ok () (c.setFlags (c.hart.flags.setFromAH (c.hart.get8 .AH))) :=
  exec_bind_ok (getHart_apply c)

/-- Which bits SAHF takes from AH, and which it leaves (R389). -/
theorem setFromAH_bit (f : Flags) (ah : Byte) {k : Nat} (bound : k < 16) :
    (f.setFromAH ah).bit k = if (0x00D5 : Word).getLsbD k then ah.getLsbD k else f.bit k := by
  interval_cases k <;> rfl

/-- SAHF on FLAGS as a word, AH being the high byte of AX (R22, R389). -/
theorem setFromAH_toWord (f : Flags) (ax : Word) :
    (f.setFromAH (highByte ax)).toWord = (f.toWord &&& ~~~(0x00D5 : Word)) ||| (ax >>> 8 &&& 0x00D5) := by
  apply BitVec.eq_of_getLsbD_eq
  intro k bound
  have high : (0x00D5 : Word).getLsbD k = true → (highByte ax).getLsbD k = (ax >>> 8).getLsbD k := by
    intro taken
    have low_half : k < 8 := by
      by_contra above
      interval_cases k <;> contradiction
    rw [highByte, BitVec.getLsbD_extractLsb', BitVec.getLsbD_ushiftRight, decide_eq_true low_half, Bool.true_and]
  rw [toWord_bit, setFromAH_bit f _ bound, BitVec.getLsbD_or, BitVec.getLsbD_and, BitVec.getLsbD_and,
    BitVec.getLsbD_not, toWord_bit]
  cases taken : (0x00D5 : Word).getLsbD k with
  | true => simp [high taken]
  | false => simp [bound]

/-- Settles O47. -/
theorem flagInstructions : Obligations.FlagInstructions := by
  intro s h running
  have assigns {i : Instr} (f : Flags → Flags) (performed : exec i = perform (modFlags f)) :=
    exec_modFlags f running performed
  refine ⟨assigns (fun f => { f with CF := false }) rfl, assigns (fun f => { f with CF := true }) rfl,
    assigns (fun f => { f with CF := !f.CF }) rfl, assigns (fun f => { f with DF := false }) rfl,
    assigns (fun f => { f with DF := true }) rfl, assigns (fun f => { f with IF := false }) rfl,
    assigns (fun f => { f with IF := true }) rfl,
    exec_modHart (fun g => g.set8 .AH (lowByte g.flags.toWord)) running rfl,
    h.flags.setFromAH (h.get8 .AH), exec_completes running rfl (storeAhIntoFlags_apply _), ?_⟩
  exact setFromAH_toWord h.flags h.AX

end Sys2Proof.Machine
end

section
/-! SUPPORT. The game extensions (R400 to R404, log 16): NRG, the carpet bomb as a run of word stores, the smart bomb as
a search from place to place; and the statement GameInstructions. -/

namespace Sys2Proof.Machine

variable {s : State} {h : Hart} {c e : Cpu} {i : Instr} {f : HartFault}

/-- An instruction of the hart whose turn it is that does nothing. -/
theorem exec_does_nothing {m : Exec Unit} (running : s.Running h) (performed : exec i = perform m)
    (run : m (s.cpu h) = .ok () (s.cpu h)) : exec i s = .next s :=
  (exec_completes running performed run).trans (by rw [commit_cpu running])

/-! ### Energy and the third bomb -/

theorem gainEnergy_apply (c : Cpu) :
    gainEnergy c = .ok () (c.setHart { c.hart with energy := raisedEnergy c.params.nrgOverflow c.hart.energy }) :=
  exec_bind_ok (getParams_apply c)

theorem raisedEnergy_saturate (energy : Word) :
    raisedEnergy .saturate energy = BitVec.ofNat 16 (min (energy.toNat + 1) 0xFFFF) := by
  have bound := energy.isLt
  apply BitVec.eq_of_toNat_eq
  rw [raisedEnergy, BitVec.toNat_ofNat]
  split
  · next below =>
    have below : energy.toNat < 0xFFFF := below
    have one : (1 : Word).toNat = 1 := rfl
    rw [BitVec.toNat_add, one]
    omega
  · next full =>
    have full : ¬ energy.toNat < 0xFFFF := full
    omega

theorem exec_nrg (running : s.Running h) :
    exec .nrg s = .next (s.commit ((s.cpu h).setHart
      { h with energy := raisedEnergy s.params.nrgOverflow h.energy })) :=
  exec_completes running rfl (gainEnergy_apply _)

/-- INT 0x88 with its counter spent (R404). -/
theorem thirdBomb_spent (spent : c.hart.bomb2 = 0) : thirdBomb c = .ok () c := by
  rw [thirdBomb, modHart_apply, if_pos spent]
  rfl

/-! ### The carpet bomb -/

/-- A word of the carpet bomb stored and DI moved on (R402). -/
def Cpu.bombWord (c : Cpu) (v : Word) : Cpu := (c.store16 ⟨c.hart.ES, c.hart.DI⟩ v).setHart (c.hart.stepDi 2)

theorem bombed_succ (k : Nat) (c : Cpu) :
    Cpu.bombed (k + 1) c = Cpu.bombed k ((c.bombWord c.hart.AX).bombWord c.hart.DX) := rfl

/-- The words to come, after one is stored. -/
theorem bombWord_target (c : Cpu) (v : Word) (k : Nat) : (c.bombWord v).hart.target 2 k = c.hart.target 2 (k + 1) :=
  target_next 2 k rfl rfl rfl

theorem bombWord_canWrite16 {a : Addr} (writable : c.CanWrite16 a) (v : Word) : (c.bombWord v).CanWrite16 a :=
  canWrite16_perm (d := c) rfl rfl writable

theorem bombed_params : ∀ (k : Nat) (c : Cpu), (Cpu.bombed k c).params = c.params
  | 0, _ => rfl
  | k + 1, _ => bombed_params k _

/-- The words to come, after `k` pairs are stored. -/
theorem bombed_target : ∀ (k j : Nat) (c : Cpu), (Cpu.bombed k c).hart.target 2 j = c.hart.target 2 (2 * k + j)
  | 0, j, c => by rw [Nat.mul_zero, Nat.zero_add, Cpu.bombed]
  | k + 1, j, c => by
    rw [bombed_succ, bombed_target, bombWord_target, bombWord_target]
    congr 1
    omega

/-- The carpet bomb's stores move DI alone (R402). -/
theorem bombed_hart : ∀ (k : Nat) (c : Cpu),
    (Cpu.bombed k c).hart = { c.hart with DI := (c.hart.target 2 (2 * k)).off }
  | 0, c => by rw [Nat.mul_zero, target_zero, Cpu.bombed]
  | k + 1, c => by
    rw [bombed_succ, bombed_hart, bombWord_target, bombWord_target]
    rfl

/-- Where the carpet bomb stores after `k` pairs. -/
theorem bombed_place (k : Nat) (c : Cpu) :
    (⟨(Cpu.bombed k c).hart.ES, (Cpu.bombed k c).hart.DI⟩ : Addr) = c.hart.target 2 (2 * k) := by
  rw [← target_zero _ 2, bombed_target, Nat.add_zero]

theorem bombed_canWrite16 {k : Nat} {a : Addr} (writable : c.CanWrite16 a) : (Cpu.bombed k c).CanWrite16 a :=
  canWrite16_perm (bombed_params k c) (by rw [bombed_hart]) writable

/-- The step of the carpet bomb is the word step of the string instructions (R290, R402). -/
theorem bombStore_step (h : Hart) : { h with DI := if h.flags.DF then h.DI - 2 else h.DI + 2 } = h.stepDi 2 := by
  rw [Hart.stepDi, stringStep]
  split
  · rw [BitVec.sub_eq_add_neg]
  · rfl

theorem bombStore_ok (writable : c.CanWrite16 ⟨c.hart.ES, c.hart.DI⟩) (v : Word) :
    bombStore v c = .ok () (c.bombWord v) := by
  refine (exec_bind_ok (getHart_apply c)).trans <| (exec_bind_ok (memWrite16_ok writable v)).trans ?_
  rw [modHart_apply, store16_hart, bombStore_step]
  rfl

theorem bombStore_fault {v : Word}
    (fault : c.writeFault ⟨c.hart.ES, c.hart.DI⟩ [lowByte v, highByte v] = some (f, e)) :
    bombStore v c = .error f e :=
  (exec_bind_ok (getHart_apply c)).trans (exec_bind_error (by rw [memWrite16_spec, fault]))

/-- The first `k` pairs of the carpet bomb, where their words may be written (R402). -/
theorem bombPairs_bombed : ∀ (k m : Nat) {c : Cpu}, (∀ j, j < 2 * k → c.CanWrite16 (c.hart.target 2 j)) →
    bombPairs (k + m) c = bombPairs m (Cpu.bombed k c)
  | 0, m, c, _ => by rw [Nat.zero_add, Cpu.bombed]
  | k + 1, m, c, writable => by
    have first : c.CanWrite16 ⟨c.hart.ES, c.hart.DI⟩ := target_zero c.hart 2 ▸ writable 0 (by omega)
    have second : (c.bombWord c.hart.AX).CanWrite16 ((c.bombWord c.hart.AX).hart.target 2 0) := by
      rw [bombWord_target, Nat.zero_add]
      exact bombWord_canWrite16 (writable 1 (by omega)) _
    rw [target_zero] at second
    rw [Nat.add_right_comm, bombed_succ, ← bombPairs_bombed k m]
    · rw [bombPairs, exec_bind_ok (getHart_apply c), exec_bind_ok (bombStore_ok first _),
        exec_bind_ok (bombStore_ok second _)]
    · intro j more
      rw [bombWord_target, bombWord_target]
      exact bombWord_canWrite16 (bombWord_canWrite16 (writable (j + 1 + 1) (by omega)) _) _

/-- The carpet bomb denied at an AX (R402, R439). -/
theorem bombPairs_first_fault {k n : Nat} (more : k < n)
    (writable : ∀ j, j < 2 * k → c.CanWrite16 (c.hart.target 2 j))
    (fault : (Cpu.bombed k c).writeFault (c.hart.target 2 (2 * k)) [lowByte c.hart.AX, highByte c.hart.AX] =
      some (f, e)) :
    bombPairs n c = .error f e ∧ e.hart = { c.hart with DI := (c.hart.target 2 (2 * k)).off } := by
  constructor
  · obtain ⟨m, rfl⟩ := Nat.exists_eq_add_of_lt more
    rw [Nat.add_assoc, bombPairs_bombed k (m + 1) writable]
    refine (exec_bind_ok (getHart_apply _)).trans (exec_bind_error (bombStore_fault ?_))
    rw [bombed_place, bombed_hart]
    exact fault
  · rw [(writeFault_leaves fault).1, bombed_hart]

/-- The carpet bomb denied at a DX (R402, R439). -/
theorem bombPairs_second_fault {k n : Nat} (more : k < n)
    (writable : ∀ j, j < 2 * k → c.CanWrite16 (c.hart.target 2 j))
    (at_k : c.CanWrite16 (c.hart.target 2 (2 * k)))
    (fault : (((Cpu.bombed k c).store16 (c.hart.target 2 (2 * k)) c.hart.AX).setHart
      ((Cpu.bombed k c).hart.stepDi 2)).writeFault (c.hart.target 2 (2 * k + 1))
        [lowByte c.hart.DX, highByte c.hart.DX] = some (f, e)) :
    bombPairs n c = .error f e ∧ e.hart = { c.hart with DI := (c.hart.target 2 (2 * k + 1)).off } := by
  let d := Cpu.bombed k c
  have first_place : (⟨d.hart.ES, d.hart.DI⟩ : Addr) = c.hart.target 2 (2 * k) := bombed_place k c
  have second_place : (⟨(d.bombWord d.hart.AX).hart.ES, (d.bombWord d.hart.AX).hart.DI⟩ : Addr) =
      c.hart.target 2 (2 * k + 1) := by
    rw [← target_zero _ 2, bombWord_target, bombed_target]
  have ax : d.hart.AX = c.hart.AX := by rw [bombed_hart]
  have dx : d.hart.DX = c.hart.DX := by rw [bombed_hart]
  constructor
  · obtain ⟨m, rfl⟩ := Nat.exists_eq_add_of_lt more
    rw [Nat.add_assoc, bombPairs_bombed k (m + 1) writable]
    refine (exec_bind_ok (getHart_apply _)).trans <| (exec_bind_ok (bombStore_ok ?_ _)).trans <|
      exec_bind_error (bombStore_fault ?_)
    · rw [first_place]
      exact bombed_canWrite16 at_k
    · rw [second_place, Cpu.bombWord, first_place, ax, dx]
      exact fault
  · rw [(writeFault_leaves fault).1, ← second_place]
    show (Cpu.bombed k c).hart.stepDi 2 = { c.hart with DI := ((Cpu.bombed k c).hart.stepDi 2).DI }
    rw [bombed_hart]
    rfl

theorem carpetBomb_spent (spent : c.hart.bomb0 = 0) : carpetBomb c = .ok () c :=
  (exec_bind_ok (getHart_apply c)).trans (congrFun (if_pos spent) c)

theorem carpetBomb_armed (armed : c.hart.bomb0 ≠ 0) :
    carpetBomb c = bombPairs 64 (c.setHart { c.hart with bomb0 := c.hart.bomb0 - 1 }) :=
  (exec_bind_ok (getHart_apply c)).trans <| (congrFun (if_neg armed) c).trans (exec_bind_ok (modHart_apply _ c))

/-- INT 0x86 that completes, its counter not spent. -/
theorem int86_completes (running : s.Running h) (armed : h.bomb0 ≠ 0)
    (run : bombPairs 64 ((s.cpu h).setHart { h with bomb0 := h.bomb0 - 1 }) = .ok () c) :
    exec .int86 s = .next (s.commit c) :=
  exec_completes running rfl ((carpetBomb_armed (c := s.cpu h) armed).trans run)

/-- INT 0x86 that raises a fault. -/
theorem int86_faults (running : s.Running h) (armed : h.bomb0 ≠ 0)
    (run : bombPairs 64 ((s.cpu h).setHart { h with bomb0 := h.bomb0 - 1 }) = .error f e) :
    exec .int86 s = .next ((s.commit e).kill f) :=
  exec_fault running rfl ((carpetBomb_armed (c := s.cpu h) armed).trans run)

/-! ### The smart bomb -/

/-- The two stores of the smart bomb (R403). -/
def replaceBy (a : Addr) (v w : Word) : Exec Unit := do
  memWrite16 a v
  memWrite16 (addOffset a 2) w

theorem replaceBy_ok {a : Addr} (v w : Word) (first : c.CanWrite16 a) (second : c.CanWrite16 (addOffset a 2)) :
    replaceBy a v w c = .ok () ((c.store16 a v).store16 (addOffset a 2) w) :=
  (exec_bind_ok (memWrite16_ok first v)).trans (memWrite16_ok (c := c.store16 a v) second w)

theorem replaceBy_first_fault {a : Addr} {v : Word} (w : Word)
    (fault : c.writeFault a [lowByte v, highByte v] = some (f, e)) : replaceBy a v w c = .error f e :=
  exec_bind_error (by rw [memWrite16_spec, fault])

theorem replaceBy_second_fault {a : Addr} {v w : Word} (first : c.CanWrite16 a)
    (fault : (c.store16 a v).writeFault (addOffset a 2) [lowByte w, highByte w] = some (f, e)) :
    replaceBy a v w c = .error f e :=
  (exec_bind_ok (memWrite16_ok first v)).trans (by rw [memWrite16_spec, fault])

/-- What the smart bomb does at one place (R403): where AX and DX stand there, BX and CX take their place, else it goes
on with `next`. -/
def lookAt (a : Addr) (next : Exec Unit) : Exec Unit := do
  let h ← getHart
  let v ← memRead16 a
  if v = h.AX then do
    let w ← memRead16 (addOffset a 2)
    if w = h.DX then replaceBy a h.BX h.CX else next
  else next

/-- The pattern stands at a place (R403). -/
def Cpu.HoldsPattern (c : Cpu) (a : Addr) : Prop := c.wordAt a = c.hart.AX ∧ c.wordAt (addOffset a 2) = c.hart.DX

/-- The search goes past a place: it may read there what it looks at, and does not find the pattern (R403). -/
def Cpu.Passes (c : Cpu) (a : Addr) : Prop :=
  c.CanRead16 a ∧ (c.wordAt a = c.hart.AX →
    c.CanRead16 (addOffset a 2) ∧ c.wordAt (addOffset a 2) ≠ c.hart.DX)

section

variable {a : Addr} {next : Exec Unit}

theorem lookAt_passes (passes : c.Passes a) : lookAt a next c = next c := by
  obtain ⟨readable, more⟩ := passes
  refine (exec_bind_ok (getHart_apply c)).trans <| (exec_bind_ok (memRead16_ok readable)).trans ?_
  by_cases first : c.wordAt a = c.hart.AX
  · obtain ⟨second_readable, differs⟩ := more first
    exact (congrFun (if_pos first) c).trans <| (exec_bind_ok (memRead16_ok second_readable)).trans
      (congrFun (if_neg differs) c)
  · exact congrFun (if_neg first) c

theorem lookAt_denied (denied : c.readFault 2 a = some f) : lookAt a next c = .error f c :=
  (exec_bind_ok (getHart_apply c)).trans (exec_bind_error (by rw [memRead16_spec, denied]))

theorem lookAt_second_denied (readable : c.CanRead16 a) (first : c.wordAt a = c.hart.AX)
    (denied : c.readFault 2 (addOffset a 2) = some f) : lookAt a next c = .error f c :=
  (exec_bind_ok (getHart_apply c)).trans <| (exec_bind_ok (memRead16_ok readable)).trans <|
    (congrFun (if_pos first) c).trans (exec_bind_error (by rw [memRead16_spec, denied]))

theorem lookAt_found (readable : c.CanRead16 a) (second_readable : c.CanRead16 (addOffset a 2))
    (found : c.HoldsPattern a) : lookAt a next c = replaceBy a c.hart.BX c.hart.CX c :=
  (exec_bind_ok (getHart_apply c)).trans <| (exec_bind_ok (memRead16_ok readable)).trans <|
    (congrFun (if_pos found.1) c).trans <| (exec_bind_ok (memRead16_ok second_readable)).trans
      (congrFun (if_pos found.2) c)

end

/-- One place of the search (R403). -/
theorem bombSearch_succ (left : Nat) (c : Cpu) :
    bombSearch (left + 1) c = lookAt (searchPlace c.hart (0xFFFF - left)) (bombSearch left) c := by
  rw [bombSearch, lookAt, exec_bind_ok (getHart_apply c), exec_bind_ok (getHart_apply c)]
  rfl

/-- The search, the first `i` places passed (R403). -/
theorem bombSearch_passed : ∀ (i left : Nat), left + i = 0x10000 → (∀ j, j < i → c.Passes (searchPlace c.hart j)) →
    bombSearch 0x10000 c = bombSearch left c
  | 0, left, all, _ => by rw [← all, Nat.add_zero]
  | i + 1, left, all, passed => by
    have place : 0xFFFF - left = i := by omega
    rw [bombSearch_passed i (left + 1) (by omega) fun j earlier => passed j (by omega), bombSearch_succ, place]
    exact lookAt_passes (passed i (Nat.lt_succ_self i))

/-- The search come to place `i` (R403). -/
theorem bombSearch_at {i : Nat} (bound : i < 0x10000) (passed : ∀ j, j < i → c.Passes (searchPlace c.hart j)) :
    bombSearch 0x10000 c = lookAt (searchPlace c.hart i) (bombSearch (0xFFFF - i)) c := by
  have place : 0xFFFF - (0xFFFF - i) = i := by omega
  rw [bombSearch_passed i (0xFFFF - i + 1) (by omega) passed, bombSearch_succ, place]

/-- A place that may not be read. -/
theorem bombSearch_denied {i : Nat} (bound : i < 0x10000) (passed : ∀ j, j < i → c.Passes (searchPlace c.hart j))
    (denied : c.readFault 2 (searchPlace c.hart i) = some f) : bombSearch 0x10000 c = .error f c :=
  (bombSearch_at bound passed).trans (lookAt_denied denied)

/-- A place where AX stands, and the word after it may not be read. -/
theorem bombSearch_second_denied {i : Nat} (bound : i < 0x10000)
    (passed : ∀ j, j < i → c.Passes (searchPlace c.hart j)) (readable : c.CanRead16 (searchPlace c.hart i))
    (first : c.wordAt (searchPlace c.hart i) = c.hart.AX)
    (denied : c.readFault 2 (addOffset (searchPlace c.hart i) 2) = some f) : bombSearch 0x10000 c = .error f c :=
  (bombSearch_at bound passed).trans (lookAt_second_denied readable first denied)

/-- A place where the pattern stands: the search ends with the replacement. -/
theorem bombSearch_found {i : Nat} {r : EStateM.Result HartFault Cpu Unit} (bound : i < 0x10000)
    (passed : ∀ j, j < i → c.Passes (searchPlace c.hart j)) (readable : c.CanRead16 (searchPlace c.hart i))
    (second_readable : c.CanRead16 (addOffset (searchPlace c.hart i) 2))
    (found : c.HoldsPattern (searchPlace c.hart i))
    (replaced : replaceBy (searchPlace c.hart i) c.hart.BX c.hart.CX c = r) :
    bombSearch 0x10000 c = r :=
  (bombSearch_at bound passed).trans <| (lookAt_found readable second_readable found).trans replaced

theorem smartBomb_spent (spent : c.hart.bomb1 = 0) : smartBomb c = .ok () c :=
  (exec_bind_ok (getHart_apply c)).trans (congrFun (if_pos spent) c)

theorem smartBomb_armed (armed : c.hart.bomb1 ≠ 0) :
    smartBomb c = bombSearch 0x10000 (c.setHart { c.hart with bomb1 := c.hart.bomb1 - 1 }) :=
  (exec_bind_ok (getHart_apply c)).trans <| (congrFun (if_neg armed) c).trans (exec_bind_ok (modHart_apply _ c))

theorem holdsPattern_iff {a : Addr} :
    (c.wordAt a == c.hart.AX && c.wordAt (addOffset a 2) == c.hart.DX) = true ↔ c.HoldsPattern a := by
  rw [Bool.and_eq_true, beq_iff_eq, beq_iff_eq, Cpu.HoldsPattern]

/-- INT 0x87 that completes, its counter not spent. -/
theorem int87_completes (running : s.Running h) (armed : h.bomb1 ≠ 0)
    (run : bombSearch 0x10000 ((s.cpu h).setHart { h with bomb1 := h.bomb1 - 1 }) = .ok () c) :
    exec .int87 s = .next (s.commit c) :=
  exec_completes running rfl ((smartBomb_armed (c := s.cpu h) armed).trans run)

/-- INT 0x87 that raises a fault. -/
theorem int87_faults (running : s.Running h) (armed : h.bomb1 ≠ 0)
    (run : bombSearch 0x10000 ((s.cpu h).setHart { h with bomb1 := h.bomb1 - 1 }) = .error f e) :
    exec .int87 s = .next ((s.commit e).kill f) :=
  exec_fault running rfl ((smartBomb_armed (c := s.cpu h) armed).trans run)

/-- The place of the pattern is the first that holds it (R403). -/
theorem bombPlace_eq_some {a : Addr} (found : c.bombPlace = some a) :
    ∃ i, i < 0x10000 ∧ a = searchPlace c.hart i ∧ c.HoldsPattern a ∧
      ∀ j, j < i → ¬ c.HoldsPattern (searchPlace c.hart j) := by
  rw [Cpu.bombPlace, List.find?_map, Option.map_eq_some_iff] at found
  obtain ⟨i, first, rfl⟩ := found
  obtain ⟨holds, bound, earlier⟩ := List.find?_range_eq_some.mp first
  refine ⟨i, List.mem_range.mp bound, rfl, holdsPattern_iff.mp holds, fun j before there => ?_⟩
  have misses := earlier j before
  rw [Bool.not_eq_true'] at misses
  exact ne_true_of_eq_false misses (holdsPattern_iff.mpr there)

theorem bombPlace_eq_none (nowhere : c.bombPlace = none) {i : Nat} (bound : i < 0x10000) :
    ¬ c.HoldsPattern (searchPlace c.hart i) := fun there =>
  List.find?_eq_none.mp nowhere _ (List.mem_map_of_mem (List.mem_range.mpr bound)) (holdsPattern_iff.mpr there)

/-- In a readable segment the search passes every place without the pattern. -/
theorem passes_of_readable (readable : ∀ o, c.CanRead8 ⟨c.hart.ES, o⟩) {i : Nat}
    (misses : ¬ c.HoldsPattern (searchPlace c.hart i)) : c.Passes (searchPlace c.hart i) :=
  ⟨⟨readable _, readable _⟩, fun ax => ⟨⟨readable _, readable _⟩, fun dx => misses ⟨ax, dx⟩⟩⟩

/-! ### The statement -/

/-- Settles O48: NRG is `raisedEnergy`, the carpet bomb goes on to its first denied word, the smart bomb to the first
place that it does not pass. -/
theorem gameInstructions : Obligations.GameInstructions := by
  intro s h running
  refine ⟨fun saturate => ?saturate, fun wrap => ?wrap, fun spent => ?carpetSpent, fun spent => ?smartSpent,
    fun spent => ?thirdSpent, fun armed => ⟨fun writable => ?carpet, fun k bound writable =>
      ⟨fun f e fault => ?carpetFirst, fun at_k f e fault => ?carpetSecond⟩⟩,
    fun armed => ⟨fun readable => ⟨fun nowhere => ?smartNowhere, fun a found first second => ?smartFound⟩,
      fun i bound passed => ⟨fun f denied => ?smartDenied, fun first_readable ax =>
        ⟨fun f denied => ?smartSecondDenied, fun second_readable dx =>
          ⟨fun f e fault => ?replaceFirst, fun first =>
            ⟨fun f e fault => ?replaceSecond, fun second => ?replaced⟩⟩⟩⟩⟩⟩
  case saturate => rw [exec_nrg running, saturate, raisedEnergy_saturate]
  case wrap => rw [exec_nrg running, wrap, raisedEnergy]
  case carpetSpent => exact exec_does_nothing running rfl (carpetBomb_spent spent)
  case smartSpent => exact exec_does_nothing running rfl (smartBomb_spent spent)
  case thirdSpent => exact exec_does_nothing running rfl (thirdBomb_spent spent)
  case carpet => exact int86_completes running armed (bombPairs_bombed 64 0 writable)
  case carpetFirst =>
    obtain ⟨stops, hart⟩ := bombPairs_first_fault (c := (s.cpu h).setHart { h with bomb0 := h.bomb0 - 1 }) bound
      writable fault
    exact ⟨int86_faults running armed stops, hart⟩
  case carpetSecond =>
    obtain ⟨stops, hart⟩ := bombPairs_second_fault (c := (s.cpu h).setHart { h with bomb0 := h.bomb0 - 1 }) bound
      writable at_k fault
    exact ⟨int86_faults running armed stops, hart⟩
  case smartNowhere =>
    exact int87_completes running armed <| bombSearch_passed 0x10000 0 rfl fun j bound =>
      passes_of_readable (c := s.cpu h) readable (bombPlace_eq_none nowhere bound)
  case smartFound =>
    obtain ⟨i, bound, rfl, holds, earlier⟩ := bombPlace_eq_some found
    have passed j (before : j < i) := passes_of_readable (c := s.cpu h) readable (earlier j before)
    exact int87_completes running armed <| bombSearch_found bound passed ⟨readable _, readable _⟩
      ⟨readable _, readable _⟩ holds (replaceBy_ok h.BX h.CX first second)
  case smartDenied => exact int87_faults running armed (bombSearch_denied bound passed denied)
  case smartSecondDenied =>
    exact int87_faults running armed (bombSearch_second_denied bound passed first_readable ax denied)
  case replaceFirst =>
    exact int87_faults running armed <| bombSearch_found bound passed first_readable second_readable ⟨ax, dx⟩
      (replaceBy_first_fault h.CX fault)
  case replaceSecond =>
    exact int87_faults running armed <| bombSearch_found bound passed first_readable second_readable ⟨ax, dx⟩
      (replaceBy_second_fault first fault)
  case replaced =>
    exact int87_completes running armed <| bombSearch_found bound passed first_readable second_readable ⟨ax, dx⟩
      (replaceBy_ok h.BX h.CX first second)

end Sys2Proof.Machine
end

section
/-! SUPPORT. Instructions that fault by themselves: the rows whose whole effect is a fault (R410 to R418, R432, R433),
and the divides by a zero divisor or with a quotient that does not fit (R435); and the statements FaultRowsKill and
DivisionFaults. -/

namespace Sys2Proof.Machine

variable {s : State} {h : Hart} {i : Instr}

/-! ### Rows that only raise a fault -/

/-- The meaning of every row of `Instr.raises` is its fault. -/
theorem exec_raises {f : HartFault} (raises : i.raises = some f) : exec i = perform (raise f) := by
  cases i
  case leaRegister | invalid8Fs1 | invalid8Fs2 | invalid8Fs3 | invalid8Fs4 | invalid8Fs5 | invalid8Fs6 | invalid8Fs7 |
    nrgBroken | invalidC0s6 | invalidC1s6 | invalidD0s6 | invalidD1s6 | invalidD2s6 | invalidD3s6 | lesRegister |
    ldsRegister | invalidC6s1 | invalidC6s2 | invalidC6s3 | invalidC6s4 | invalidC6s5 | invalidC6s6 | invalidC6s7 |
    invalidC7s1 | invalidC7s2 | invalidC7s3 | invalidC7s4 | invalidC7s5 | invalidC7s6 | invalidC7s7 | repnzBroken |
    repBroken | invalidF6s1 | invalidF7s1 | invalidFEs2 | invalidFEs3 | invalidFEs4 | invalidFEs5 | invalidFEs6 |
    invalidFEs7 | invalidFFs7 | callFarRegister | jmpFarRegister | invalid0F | invalid63 | invalid64 | invalid65 |
    invalid66 | invalid67 | invalid82 | invalidD6 | invalidF1 =>
    obtain rfl : HartFault.invalidOpcode = f := Option.some.inj raises
    rfl
  case esc | esOverride | csOverride | ssOverride | dsOverride | daa | das | aaa | aas | aam | aad | bound | insb |
    insw | outsb | outsw | inAlImm8 | inAxImm8 | outImm8Al | outImm8Ax | inAlDx | inAxDx | outDxAl | outDxAx | lock |
    hlt =>
    obtain rfl : HartFault.unimplementedOpcode = f := Option.some.inj raises
    rfl
  all_goals exact absurd raises (Option.some_ne_none f).symm

/-- Settles O49. -/
theorem faultRowsKill : Obligations.FaultRowsKill := by
  intro s h running i f raises
  exact exec_fault_at_once running (exec_raises raises) (raise_apply f _)

/-! ### The divides -/

/-- The end of every divide (R316, R317, R435): both tests, then the registers and flags. -/
def divideEnd (zero tooBig : Prop) [Decidable zero] [Decidable tooBig] (assign : Hart → Hart) : Exec Unit :=
  if zero then raise .divisionFault
  else if tooBig then raise .divisionFault
  else do
    modHart assign
    divFlags

/-- An instruction that completes kills no hart: the count of deaths stays. -/
theorem commit_ne_kill (s : State) (c : Cpu) (f : HartFault) : s.commit c ≠ s.kill f := by
  intro same
  have deaths := congrArg State.deathCount same
  rw [State.commit_deathCount, State.kill_deathCount] at deaths
  omega

/-- A divide, its operand read, kills its hart exactly when one of its two tests holds. -/
theorem divide_faults_iff {m : Exec Unit} {zero tooBig : Prop} [Decidable zero] [Decidable tooBig]
    {assign : Hart → Hart} (running : s.Running h) (performed : exec i = perform m)
    (run : m (s.cpu h) = divideEnd zero tooBig assign (s.cpu h)) :
    exec i s = .next (s.kill .divisionFault) ↔ zero ∨ tooBig := by
  have faults (fault : divideEnd zero tooBig assign = raise .divisionFault) :
      exec i s = .next (s.kill .divisionFault) :=
    exec_fault_at_once running performed (run.trans (congrFun fault _))
  by_cases z : zero
  · exact iff_of_true (faults (if_pos z)) (.inl z)
  · by_cases b : tooBig
    · exact iff_of_true (faults ((if_neg z).trans (if_pos b))) (.inr b)
    · have completes := exec_completes running performed (run.trans (divided_ok z b assign _))
      rw [completes]
      exact iff_of_false (fun same => commit_ne_kill _ _ _ (Host.Outcome.next.inj same)) (not_or.mpr ⟨z, b⟩)

theorem toNat_eq_zero_iff {n : Nat} {d : BitVec n} : d.toNat = 0 ↔ d = 0 := by
  simp [← BitVec.toNat_inj]

theorem toInt_eq_zero_iff {n : Nat} {d : BitVec n} : d.toInt = 0 ↔ d = 0 := by
  simp [← BitVec.toInt_inj]

/-- Settles O41: the tests of each form are on the divisor and on the quotient. -/
theorem divisionFaults : Obligations.DivisionFaults := by
  intro s h running
  refine ⟨fun rm readable => ?_, fun rm readable => ?_⟩
  · have get := operand8_get_ok (c := s.cpu h) readable
    refine ⟨?divEb, ?idivEb⟩
    case divEb =>
      rw [← toNat_eq_zero_iff]
      exact divide_faults_iff running rfl (exec_bind_ok get)
    case idivEb =>
      rw [← toInt_eq_zero_iff]
      exact divide_faults_iff running rfl (exec_bind_ok get)
  · have get := operand16_get_ok (c := s.cpu h) readable
    refine ⟨?divEw, ?idivEw⟩
    case divEw =>
      rw [← toNat_eq_zero_iff]
      exact divide_faults_iff running rfl (exec_bind_ok get)
    case idivEw =>
      rw [← toInt_eq_zero_iff]
      exact divide_faults_iff running rfl (exec_bind_ok get)

end Sys2Proof.Machine
end

section
/-! SUPPORT. The scheduler (R434, R443 to R451): whose turn is next, what follows an instruction, the round boundary;
and the statements KillEffect, SpeedIsBitLength, TurnOfAHart, TurnsInLoadOrder, RoundBoundary and
StepGoesOnUntilTheEnd. -/

namespace Sys2Proof.Machine

open Sys2Proof.Config (Params)

variable {s : State} {h : Hart}

/-! ### Speed -/

theorem speed_of_pos (p : Params) {e : Word} (pos : e ≠ 0) : speed p e = min p.maxSpeed (1 + Nat.log 2 e.toNat) := by
  rw [speed, if_neg pos, Nat.log2_eq_log_two]

/-- A word has sixteen bits, and `MAX_SPEED` is no less (R9). -/
theorem speed_eq_bit_length {p : Params} (fast : 16 ≤ p.maxSpeed) {e : Word} (pos : e ≠ 0) :
    speed p e = 1 + Nat.log 2 e.toNat := by
  have bits : Nat.log 2 e.toNat < 16 := Nat.log_lt_of_lt_pow' (by decide) e.isLt
  rw [speed_of_pos p pos]
  omega

theorem speed_mono {p : Params} (e f : Word) (le : e ≤ f) : speed p e ≤ speed p f := by
  by_cases e_zero : e = 0
  · rw [speed, if_pos e_zero]
    exact Nat.zero_le _
  · have f_pos : f ≠ 0 := by
      rintro rfl
      exact e_zero (BitVec.le_zero_iff.mp le)
    rw [speed_of_pos p e_zero, speed_of_pos p f_pos]
    exact min_le_min_left _ (Nat.add_le_add_left (Nat.log_mono_right le) 1)

/-- Settles O53: the bit length of a word is 16 at most, so that `MAX_SPEED` never cuts it. -/
theorem speedIsBitLength : Obligations.SpeedIsBitLength := by
  intro p fast
  refine ⟨if_pos rfl, ?_, fun e pos => speed_of_pos p pos, fun e pos => ?_, speed_mono⟩
  · have bits : Nat.log 2 (0xFFFF : Word).toNat = 15 :=
      Nat.log_eq_of_pow_le_of_lt_pow (by decide) (by decide)
    rw [speed_eq_bit_length fast (by decide), bits]
  · have nonzero : e.toNat ≠ 0 := by simpa [BitVec.toNat_eq] using pos
    have bits : Nat.log 2 e.toNat < 16 := Nat.log_lt_of_lt_pow' (by decide) e.isLt
    have below := Nat.pow_log_le_self 2 nonzero
    have above := Nat.lt_pow_succ_log_self Nat.one_lt_two e.toNat
    rw [speed_eq_bit_length fast pos, Nat.add_sub_cancel_left, Nat.add_comm]
    exact ⟨by omega, by omega, below, above⟩

/-! ### The order of turns -/

/-- The next hart is the first living one (R443). -/
theorem nextLiving_eq_some {harts : List Hart} {w v : Nat} (after : w ≤ v) (there : harts[v]? = some h)
    (alive : h.alive = true) (dead : ∀ u g, w ≤ u → u < v → harts[u]? = some g → g.alive = false) :
    nextLiving harts w = some v := by
  obtain ⟨k, rfl⟩ := Nat.exists_eq_add_of_le after
  obtain ⟨bound, rfl⟩ := List.getElem?_eq_some_iff.mp there
  have first : (harts.drop w).findIdx? (fun h => h.alive) = some k := by
    refine List.findIdx?_eq_some_iff_getElem.mpr ⟨by rw [List.length_drop]; omega, ?_, fun j before => ?_⟩
    · rwa [List.getElem_drop]
    · rw [List.getElem_drop, dead (w + j) _ (by omega) (by omega) (List.getElem?_eq_getElem _)]
      exact Bool.false_ne_true
  rw [nextLiving, first]
  rfl

theorem nextLiving_eq_none {harts : List Hart} {w : Nat}
    (dead : ∀ u g, w ≤ u → harts[u]? = some g → g.alive = false) : nextLiving harts w = none := by
  have nowhere : (harts.drop w).findIdx? (fun h => h.alive) = none := by
    refine List.findIdx?_eq_none_iff.mpr fun g hg => ?_
    obtain ⟨k, there⟩ := List.mem_iff_getElem?.mp hg
    exact dead (w + k) g (Nat.le_add_right w k) (List.getElem?_drop ▸ there)
  rw [nextLiving, nowhere]
  rfl

theorem turnFrom_living {w v : Nat} (after : w ≤ v) (there : s.harts[v]? = some h) (alive : h.alive = true)
    (dead : ∀ u g, w ≤ u → u < v → s.harts[u]? = some g → g.alive = false) :
    s.turnFrom w = { s with turn := v, phase := .mandatory } := by
  rw [State.turnFrom, nextLiving_eq_some after there alive dead]

theorem turnFrom_dead {w : Nat} (dead : ∀ u g, w ≤ u → s.harts[u]? = some g → g.alive = false) :
    s.turnFrom w = { s with round := s.round + 1, phase := .boundary } := by
  rw [State.turnFrom, nextLiving_eq_none dead]

/-- Settles O55: passing the turn is giving it from the next index on. -/
theorem turnsInLoadOrder : Obligations.TurnsInLoadOrder := by
  rintro s t rfl
  exact ⟨fun v h after there alive dead => turnFrom_living after there alive dead, fun dead => turnFrom_dead dead⟩

/-! ### After an instruction -/

/-- What follows an instruction, once: the rest of a dead hart's turn is skipped, and a mandatory instruction alone is
followed by decay and trial (R434, R444). -/
theorem afterInstr_running (running : s.Running h) :
    s.afterInstr = if !h.alive then s.nextTurn
      else if s.phase = .mandatory then s.afterMandatory h else s.nextTurn := by
  have there : s.harts[s.turn]? = some h := running
  rw [State.afterInstr, there]

theorem afterInstr_mandatory (running : s.Running h) (alive : h.alive = true) (phase : s.phase = .mandatory) :
    s.afterInstr = s.afterMandatory h := by
  rw [afterInstr_running running, alive, if_neg (by decide), if_pos phase]

/-- Settles O52: a kill is an update of the one hart, and a dead hart's turn passes on. -/
theorem killEffect : Obligations.KillEffect := by
  intro s f h running
  have killed : (s.kill f).Running { h with alive := false } := by
    rw [State.Running, State.kill_harts, State.kill_turn, modify_running running]
    exact getElem?_turn_set running _
  exact ⟨by rw [State.kill, modify_running running], afterInstr_running killed⟩

/-- Settles O54: a draw is a remainder by `MAX_SPEED`, and the trial compares it with the speed after decay. -/
theorem turnOfAHart : Obligations.TurnOfAHart := by
  intro s h running alive e u s'
  refine ⟨fun legal => ?legal, fun phase below => ?extra, fun phase above => ?passes, fun phase => ?second⟩
  case legal =>
    obtain ⟨-, -, -, -, -, -, -, -, -, -, -, -, -, -, -, -, -, -, -, fast⟩ := Config.Params.legal_spec legal
    exact Nat.mod_lt _ (by omega)
  case extra =>
    rw [afterInstr_mandatory running alive phase]
    exact if_pos (decide_eq_true below)
  case passes =>
    rw [afterInstr_mandatory running alive phase]
    exact if_neg (mt of_decide_eq_true (Nat.not_lt.mpr above))
  case second => rw [afterInstr_running running, alive, phase, if_neg (by decide), if_neg (by decide)]

/-! ### The round boundary and the end -/

theorem step_boundary (going : s.endReason = none) (boundary : s.phase = .boundary) : step s = .next s.atBoundary := by
  simp only [step, State.blockStep, going, Option.isSome_none, Bool.false_eq_true, if_false, boundary, if_true]

theorem step_ended (ended : s.endReason ≠ none) : step s = .fault .warEnded :=
  if_pos (Option.isSome_iff_ne_none.mpr ended)

theorem mem_winners {w : Nat} : w ∈ s.winners ↔ ∃ h, s.harts[w]? = some h ∧ h.alive = true := by
  rw [State.winners, List.mem_filter, List.mem_range, Option.any_eq_true]
  exact ⟨fun living => living.2, fun living => ⟨(List.getElem?_eq_some_iff.mp living.choose_spec.1).1, living⟩⟩

/-- Settles O56: the tests of the boundary in their order; a round that begins gives the turn from index 0 on. -/
theorem roundBoundary : Obligations.RoundBoundary := by
  intro s going boundary
  rw [step_boundary going boundary, State.atBoundary]
  refine ⟨fun few => ?single, fun two cap => ?cap, fun two below raised => ?aborted,
    fun two below calm w h there alive dead => ?begins, fun _ => rfl, fun w => mem_winners, rfl⟩
  case single => rw [if_pos few]
  case cap => rw [if_neg (Nat.not_lt.mpr two), if_pos cap]
  case aborted => rw [if_neg (Nat.not_lt.mpr two), if_neg below, if_pos raised]
  case begins =>
    rw [if_neg (Nat.not_lt.mpr two), if_neg below, if_neg (ne_true_of_eq_false calm)]
    exact congrArg _ (turnFrom_living (s := { s with events := .round s.round :: s.events }) (Nat.zero_le w) there alive
      fun u g _ => dead u g)

/-- Settles O15: a boundary always answers, and inside a round the invariant gives a living hart, whose slot does. -/
theorem stepGoesOnUntilTheEnd : Obligations.StepGoesOnUntilTheEnd := by
  intro s inv
  refine ⟨fun going => ?_, step_ended⟩
  by_cases boundary : s.phase = .boundary
  · exact ⟨s.atBoundary, step_boundary going boundary⟩
  · obtain ⟨-, -, -, -, -, -, -, inRound⟩ := inv
    obtain ⟨-, -, h, running, alive⟩ := inRound boundary
    obtain ⟨u, ran, -⟩ := runInstr_leaves decode_wf running
    exact ⟨u.afterInstr, by rw [step_slot going boundary running alive, ran, afterAnswer]⟩

end Sys2Proof.Machine
end

section
/-! SUPPORT. What reset makes of a configuration (R480 to R490): one hart of each record, its blocks where the bump
allocator puts them, its three grants, the images in the arena; and the statements ResetRegisters, ResetGrants and
ResetMemory. -/

namespace Sys2Proof.Machine

open Sys2Proof.Config (Params)

variable {p : Params} {c : ResetConfig} {s : State} {h : Hart} {w : Nat}

/-! ### The harts -/

/-- The hart of each record (R488). -/
theorem resetHarts_getElem? : ∀ {infos : List WarriorInfo} {hs : List Hart} {w : Nat}, resetHarts p infos = some hs →
    hs[w]? = some h → ∃ info T, infos[w]? = some info ∧ resetPerm p info = some T ∧ h = Hart.atReset p info T
  | [], hs, w, made, there => by
    cases made
    contradiction
  | info :: rest, hs, w, made, there => by
    simp only [resetHarts, Option.bind_eq_bind, Option.bind_eq_some_iff, Option.pure_def, Option.some.injEq] at made
    obtain ⟨T, granted, others, others_made, rfl⟩ := made
    cases w with
    | zero => exact ⟨info, T, rfl, granted, (Option.some.inj there).symm⟩
    | succ w => exact resetHarts_getElem? (w := w) others_made there

/-- How many warriors stand in the groups before group `j` (R480). -/
def ResetConfig.before (c : ResetConfig) (j : Nat) : Nat := ((c.groups.take j).map List.length).sum

/-- The record of warrior `w`, which is `v` and stands in group `j` (R36, R486). -/
def ResetConfig.record (c : ResetConfig) (w j : Nat) (v : WarriorConfig) : WarriorInfo where
  name := v.name
  codeSize := v.image.length
  loadOffset := BitVec.ofNat 16 v.loadOffset
  group := j
  stackLinear := c.params.arenaEnd + (j + 1) * c.params.sharedSize + w * c.params.stackSize
  sharedLinear := c.params.arenaEnd + j * c.params.sharedSize + c.before j * c.params.stackSize

/-- Warrior `w` of a configuration is `v` and stands in group `j` (R480). -/
structure ResetConfig.StandsIn (c : ResetConfig) (w j : Nat) (v : WarriorConfig) : Prop where
  warrior : c.warriors[w]? = some v
  group : ∃ members, c.groups[j]? = some members ∧ c.before j ≤ w ∧ w < c.before j + members.length

/-- What every hart is after reset (R486 to R488): the registers of R488 over its record and its table. -/
theorem reset_hart (accepted : resetBlock c = some s) (there : s.harts[w]? = some h) :
    ∃ j v T, c.StandsIn w j v ∧ resetPerm c.params (c.record w j v) = some T ∧
      h = Hart.atReset c.params (c.record w j v) T := by
  obtain ⟨-, -, -, -, hs, made, rfl⟩ := resetBlock_spec accepted
  obtain ⟨info, T, record, granted, rfl⟩ := resetHarts_getElem? made there
  obtain ⟨-, length, records⟩ := allocGroups_spec c.params c.groups 0 c.params.arenaEnd
  have bound : w < c.warriors.length := length ▸ (List.getElem?_eq_some_iff.mp record).1
  obtain ⟨j, members, placed, group, first, last⟩ := records w _ (List.getElem?_eq_getElem bound)
  obtain rfl : info = c.record w j c.warriors[w] := by
    rw [record, Option.some.injEq, Nat.zero_add] at placed
    exact placed
  exact ⟨j, _, T, ⟨List.getElem?_eq_getElem bound, members, group, first, last⟩, granted, rfl⟩

/-- Both blocks of a hart lie above the arena and inside memory (R486). -/
theorem record_blocks (legal : c.Legal) {j : Nat} {v : WarriorConfig} (stands : c.StandsIn w j v) :
    let info := c.record w j v
    c.params.arenaEnd ≤ info.stackLinear ∧ info.stackLinear < c.params.memorySize ∧
      c.params.arenaEnd ≤ info.sharedLinear ∧ info.sharedLinear < c.params.memorySize := by
  obtain ⟨warrior, members, group, first, -⟩ := stands
  obtain ⟨params, -, -, -, -, fits⟩ := legal
  obtain ⟨-, -, -, -, -, -, -, -, -, -, stack_pos, -⟩ := Config.Params.legal_spec params
  have groups : (j + 1) * c.params.sharedSize ≤ c.groups.length * c.params.sharedSize :=
    Nat.mul_le_mul_right _ (List.getElem?_eq_some_iff.mp group).1
  have warriors : (w + 1) * c.params.stackSize ≤ c.warriors.length * c.params.stackSize :=
    Nat.mul_le_mul_right _ (List.getElem?_eq_some_iff.mp warrior).1
  have before : c.before j * c.params.stackSize ≤ w * c.params.stackSize := Nat.mul_le_mul_right _ first
  rw [Nat.succ_mul] at groups warriors
  simp only [ResetConfig.record, Nat.succ_mul]
  omega

/-- The segment of a paragraph in memory is a word (R62, R488). -/
theorem segment_toNat (legal : p.legal = true) {L : Nat} (bound : L < p.memorySize) :
    (BitVec.ofNat 16 (L / p.paragraphSize)).toNat = L / p.paragraphSize :=
  (fromLinear_toNat legal bound).1

theorem zero_toWord : Flags.zero.toWord = 0 := by decide

/-- Settles O57: the registers of R488, over the record that says where the allocator put the blocks. -/
theorem resetRegisters : Obligations.ResetRegisters := by
  intro c s accepted w h there
  have legal := (resetBlock_legal accepted).1
  obtain ⟨j, v, T, stands, -, rfl⟩ := reset_hart accepted there
  obtain ⟨-, stack, -, shared⟩ := record_blocks legal stands
  refine ⟨⟨v, stands.warrior, rfl, rfl⟩, rfl, rfl, rfl, fun hardware => ?hardware, ⟨stands.group, rfl, rfl⟩,
    segment_toNat legal.1 stack, segment_toNat legal.1 shared, rfl, rfl, rfl, rfl, rfl, rfl, zero_toWord,
    rfl, rfl, rfl, rfl, rfl⟩
  case hardware =>
    rw [Hart.atReset, hardware]
    exact ⟨rfl, rfl⟩

/-! ### The grants -/

/-- What a grant that succeeds makes of a table: the range reads as granted, the rest as before (R86). -/
theorem grant_read {T U : List Region} {addr size : Nat} {perm : Byte} (rising : risingFrom 0 T = true)
    (granted : grant p T addr size perm = some U) :
    risingFrom 0 U = true ∧
      ∀ L, L < p.memorySize → permAt U L = if addr ≤ L ∧ L < addr + size then perm else permAt T L := by
  unfold grant at granted
  split at granted
  · next empty =>
    obtain rfl := Option.some.inj granted
    exact ⟨rising, fun L _ => (if_neg (by omega)).symm⟩
  · split at granted
    · obtain rfl := Option.some.inj granted
      obtain ⟨parts_rising, parts_read⟩ := grantParts_spec (p := p) addr size perm rising
      obtain ⟨merged_rising, -, -, merged_read, -⟩ := mergeRegions_spec parts_rising
      exact ⟨merged_rising, fun L bound => (merged_read L (Nat.zero_le L)).trans (parts_read L bound)⟩
    · contradiction

/-- The table of a hart after reset: the last of its three grants that covers an address decides (R487). -/
theorem resetPerm_read {info : WarriorInfo} {T : List Region} (made : resetPerm p info = some T) {L : Nat}
    (bound : L < p.memorySize) :
    permAt T L =
      if info.sharedLinear ≤ L ∧ L < info.sharedLinear + p.sharedSize then p.permData
      else if info.stackLinear ≤ L ∧ L < info.stackLinear + p.stackSize then p.permData
      else if p.arenaBase ≤ L ∧ L < p.arenaBase + p.arenaSize then p.permAll
      else 0 := by
  simp only [resetPerm, Option.bind_eq_bind, Option.bind_eq_some_iff] at made
  obtain ⟨arena, arena_granted, stack, stack_granted, shared_granted⟩ := made
  obtain ⟨arena_rising, arena_read⟩ := grant_read rfl arena_granted
  obtain ⟨stack_rising, stack_read⟩ := grant_read arena_rising stack_granted
  obtain ⟨-, shared_read⟩ := grant_read stack_rising shared_granted
  rw [shared_read L bound, stack_read L bound, arena_read L bound, permAt]

/-- Settles O58: the blocks lie above the arena, so that the three grants overlap at most in the two of data. -/
theorem resetGrants : Obligations.ResetGrants := by
  intro c s accepted h member L bound
  obtain ⟨w, there⟩ := List.mem_iff_getElem?.mp member
  obtain ⟨j, v, T, stands, made, rfl⟩ := reset_hart accepted there
  obtain ⟨stack, -, shared, -⟩ := record_blocks (resetBlock_legal accepted).1 stands
  refine (resetPerm_read made bound).trans ?_
  rw [Params.arenaEnd] at stack shared
  by_cases in_arena : c.params.arenaBase ≤ L ∧ L < c.params.arenaBase + c.params.arenaSize
  · rw [if_pos in_arena, if_neg (by omega), if_neg (by omega), if_pos in_arena]
    rfl
  · rw [if_neg in_arena, if_neg in_arena, ← ite_or]
    exact if_congr or_comm rfl rfl

/-! ### Memory -/

/-- Storing the images of `ws` one after the other (R485). -/
def storeImages (p : Params) (ws : List WarriorConfig) (m : Memory) : Memory :=
  ws.foldl (fun m w => m.writeBytes p (p.arenaBase + w.loadOffset) w.image) m

theorem memory_eq_storeImages (c : ResetConfig) : c.memory = storeImages c.params c.warriors ⟨[]⟩ := rfl

/-- An address outside every image reads as before. -/
theorem storeImages_outside : ∀ {ws : List WarriorConfig} {m : Memory} {L : Nat},
    (∀ v ∈ ws, L < p.arenaBase + v.loadOffset ∨ p.arenaBase + v.loadOffset + v.image.length ≤ L) →
    (storeImages p ws m).read p L = m.read p L
  | [], _, _, _ => rfl
  | v :: ws, m, L, outside => by
    obtain ⟨v_outside, ws_outside⟩ := List.forall_mem_cons.mp outside
    refine (storeImages_outside (ws := ws) ws_outside).trans ?_
    rw [read_writeBytes]
    split
    · rw [List.getElem?_eq_none (by omega), Option.getD_none]
    · rfl

/-- Two images with a gap between them, or none, do not overlap (R484). -/
def ImagesApart (p : Params) (v w : WarriorConfig) : Prop :=
  v.loadOffset + v.image.length + p.minGap ≤ w.loadOffset ∨ w.loadOffset + w.image.length + p.minGap ≤ v.loadOffset

/-- Each byte of each image stands at its place, no later image covering it. -/
theorem storeImages_inside : ∀ {ws : List WarriorConfig} {m : Memory}, ws.Pairwise (ImagesApart p) → ∀ v ∈ ws,
    ∀ (k : Nat) (b : Byte), v.image[k]? = some b →
      (storeImages p ws m).read p (p.arenaBase + v.loadOffset + k) = b
  | w :: ws, m, apart, v, member, k, b, byte => by
    obtain ⟨w_apart, ws_apart⟩ := List.pairwise_cons.mp apart
    obtain rfl | later := List.mem_cons.mp member
    · have inside := (List.getElem?_eq_some_iff.mp byte).1
      have covered_by_none : ∀ u ∈ ws, p.arenaBase + v.loadOffset + k < p.arenaBase + u.loadOffset ∨
          p.arenaBase + u.loadOffset + u.image.length ≤ p.arenaBase + v.loadOffset + k := by
        intro u hu
        obtain below | above := w_apart u hu <;> omega
      refine (storeImages_outside (ws := ws) covered_by_none).trans ?_
      rw [read_writeBytes, if_pos (Nat.le_add_right _ k), Nat.add_sub_cancel_left, byte, Option.getD_some]
    · exact storeImages_inside ws_apart v later k b byte

theorem empty_memory_read (p : Params) (L : Nat) : (⟨[]⟩ : Memory).read p L = fillAt p L := rfl

/-- Settles O59: the images lie apart, and what none of them covers is the fill. -/
theorem resetMemory : Obligations.ResetMemory := by
  intro c s accepted
  obtain ⟨⟨-, -, -, -, apart, -⟩, -⟩ := resetBlock_legal accepted
  obtain ⟨-, -, -, -, hs, made, rfl⟩ := resetBlock_spec accepted
  have one_each : hs.length = c.warriors.length :=
    (resetHarts_spec made).1.trans (allocGroups_spec c.params c.groups 0 _).2.1
  rw [memory_eq_storeImages]
  refine ⟨storeImages_inside apart, fun L outside => ?fill, one_each, rfl, rfl, one_each, rfl, rfl, rfl, ?events⟩
  case fill => exact (storeImages_outside outside).trans (empty_memory_read c.params L)
  case events => simp only [birthEvents, one_each, List.reverse_append, List.reverse_reverse]; rfl

end Sys2Proof.Machine
end

section
/-! SUPPORT. The general registers an instruction changes (R21, R22, R24): its destinations and what its rule moves, by
the writes it may make; and the statement RegisterFrame. -/

namespace Sys2Proof.Machine

variable {i : Instr} {r : Reg16} {b : Reg8}

theorem writes16_iff : i.writes16 r = true ↔ r ∈ i.wordRegs ∨ i.dest16 = some (.reg r) := by
  rw [Instr.writes16, Bool.or_eq_true, List.contains_iff_mem, beq_iff_eq]

theorem writes8_iff :
    i.writes8 b = true ↔ (b ∈ i.byteRegs ∨ i.dest8 = some (.reg b)) ∨ i.writes16 b.wide = true := by
  rw [Instr.writes8, Bool.or_eq_true, Bool.or_eq_true, List.contains_iff_mem, beq_iff_eq]

/-- A word register that an instruction writes neither as a whole nor in a half. -/
theorem allows_get16 (whole : i.writes16 r = false) (halves : ∀ b : Reg8, b.wide = r → i.writes8 b = false) :
    Allows (fun c d => d.hart.get16 r = c.hart.get16 r) i where
  refl _ := rfl
  trans first second := second.trans first
  undef _ := rfl
  byte q written c v := by
    refine get16_set8_ne c.hart (fun half => ?_) v
    have unwritten := halves q half
    rw [writes8_iff.mpr (.inl written)] at unwritten
    exact Bool.noConfusion unwritten
  word q written c v := by
    refine get16_set16_ne c.hart (fun same => ?_) v
    rw [← same, writes16_iff.mpr written] at whole
    exact Bool.noConfusion whole
  seg q _ c v := get16_setSreg c.hart q r v
  ip _ _ _ := by cases r <;> rfl
  flags _ _ _ := by cases r <;> rfl
  energy _ _ _ := by cases r <;> rfl
  bomb0 _ _ _ := by cases r <;> rfl
  bomb1 _ _ _ := by cases r <;> rfl
  bomb2 _ _ _ := by cases r <;> rfl
  store _ _ _ _ := rfl

/-- A byte register that an instruction writes neither alone nor with the word register it is half of. -/
theorem allows_get8 (unwritten : i.writes8 b = false) : Allows (fun c d => d.hart.get8 b = c.hart.get8 b) i where
  refl _ := rfl
  trans first second := second.trans first
  undef _ := rfl
  byte q written c v := by
    refine get8_set8_ne c.hart (fun same => ?_) v
    rw [← same, writes8_iff.mpr (.inl written)] at unwritten
    exact Bool.noConfusion unwritten
  word q written c v := by
    refine get8_congr _ _ b (get16_set16_ne c.hart (fun same => ?_) v)
    rw [writes8_iff.mpr (.inr (same ▸ writes16_iff.mpr written))] at unwritten
    exact Bool.noConfusion unwritten
  seg q _ c v := get8_congr _ _ b (get16_setSreg c.hart q b.wide v)
  ip _ _ _ := by cases b <;> rfl
  flags _ _ _ := by cases b <;> rfl
  energy _ _ _ := by cases b <;> rfl
  bomb0 _ _ _ := by cases b <;> rfl
  bomb1 _ _ _ := by cases b <;> rfl
  bomb2 _ _ _ := by cases b <;> rfl
  store _ _ _ _ := rfl

/-- Settles O20: an instruction stays inside both relations, and the death of its hart changes no register. -/
theorem registerFrame : Obligations.RegisterFrame := by
  intro i s t h g wf running next after
  constructor
  · intro r whole halves
    exact exec_next_hart (f := fun x => x.get16 r) (allows_get16 whole halves) wf (fun _ => by cases r <;> rfl)
      running next after
  · intro b unwritten
    exact exec_next_hart (f := fun x => x.get8 b) (allows_get8 unwritten) wf (fun _ => by cases b <;> rfl)
      running next after

end Sys2Proof.Machine
end

section
/-! SUPPORT. Words written out from the encodings of the spec; and the statement DecodeWords. -/

namespace Sys2Proof

/-- Settles O3: the decoder, run on the bytes of each word. -/
theorem decodeWords : Obligations.DecodeWords :=
  ⟨rfl, rfl, rfl, rfl, rfl, rfl, rfl, rfl, rfl, rfl, rfl, rfl, rfl, rfl, rfl⟩

end Sys2Proof
end
